-- ==== Sys2Proof/Word.lean ====
section
/-! DEFINITION. The sizes of the engine's data (00_scope.md R5, R9; 10_state.md R16 to R21). -/

namespace Sys2Proof

/-- A byte: 8 bits, bit 7 the most significant (R9). As an element of GF(2^8) bit `i` is the coefficient of x^i. -/
abbrev Byte := BitVec 8

/-- A word of the key schedule, and a column of the state matrix: four bytes, index 0 at the lowest offset (R9, R43). -/
abbrev Word := Vector Byte 4

/-- A block: sixteen bytes in stream order, index 0 the byte that arrives or leaves first (R5, R43). -/
abbrev Block := Vector Byte 16

/-- The 4 by 4 byte matrix: `m[r][c]` is row `r`, column `c` (R9, R19). -/
abbrev StateMatrix := Vector (Vector Byte 4) 4

/-- The expanded key: 176 bytes, eleven round keys of sixteen bytes (R5, R18, R42). -/
abbrev ExpandedKey := Vector Byte 176

/-- Sixteen bytes 0x00. -/
def zeroBlock : Block := Vector.replicate 16 0x00

/-- The matrix of sixteen bytes 0x00. -/
def zeroMatrix : StateMatrix := Vector.replicate 4 (Vector.replicate 4 0x00)

/-- 176 bytes 0x00. -/
def zeroExpandedKey : ExpandedKey := Vector.replicate 176 0x00

end Sys2Proof
end

