-- ==== Sys2Proof/Config.lean ====
section
/-! DEFINITION. What one build of the engine fixes (00_scope.md R6) and the free values: the unspecified bytes, and what the
environment puts on the pins. -/

namespace Sys2Proof

/-- `MPROM_DEPTH`: the micro-program has 43 words, at addresses 0 to 42 (R6, R66). -/
def Config.mpromDepth : Nat := 43

/-- `STATUS_OK` (R6, R24). -/
def Config.statusOk : Byte := 0x00

/-- `STATUS_OUTPUT_WRITE_FAILURE`, which is also the cause code of the one exception (R6, R24, R190). -/
def Config.statusOutputWriteFailure : Byte := 0x01

/-- The free bytes: what a byte of KEY, XK, ST or OBUF holds after a RESET event, which the spec calls unspecified
(70_reset_and_hazards.md R220, R221). It has no body, so a claim that holds, holds whatever they are.
DESIGN CHOICE (log entry 4), safe. -/
opaque Config.freeByte : Nat → Byte

/-- The input pins on one rising edge of `clk` (R30). -/
structure Pins where
  rst : Bool
  inValid : Bool
  inData : Byte
  inEos : Bool
  outReady : Bool
  outErr : Bool
  deriving DecidableEq, Repr, Inhabited

/-- An edge on which nobody asserts anything (R231, R232: the source and the sink may wait). -/
def Pins.idle : Pins :=
  { rst := false, inValid := false, inData := 0x00, inEos := false, outReady := false, outErr := false }

/-- What the source, the sink and the host put on the pins, edge by edge. The bytes the environment will offer are no state of the
engine (00_scope.md R8 item 2; 10_state.md R34: "the environment chooses"). It has no body, so a claim that holds, holds whatever
they put there. DESIGN CHOICE (log entry 2), safe. -/
opaque Config.pins : Nat → Pins

end Sys2Proof
end

