-- ==== Sys2Proof/Machine/State.lean ====
section
/-! DEFINITION. The state of the engine: the thirteen items of 10_state.md R10, the two byte streams of 20_memory.md R40, and
the model's own fields (log entries 2, 4, 8), with the reasons a step can stop. -/

namespace Sys2Proof.Machine

/-- The framer state `fst` (R11). -/
inductive FramerState where
  | awaitingKey
  | encrypting
  | done
  | fault
  deriving DecidableEq, Repr

/-- The sequencer phase `ph` (R12). Code 3 is never taken and has no name. DESIGN CHOICE (log entry 16), safe. -/
inductive Phase where
  | recv
  | exec
  | send
  deriving DecidableEq, Repr

/-- What the class F function unit that was last driven directly shows on its output wires; `nothing` before any.
DESIGN CHOICE (log entry 8), safe. -/
inductive UnitOutput where
  | nothing
  | byte (b : Byte)
  | word (w : Word)
  | block (b : Block)
  | matrix (m : StateMatrix)
  | schedule (xk : ExpandedKey)
  deriving DecidableEq, Repr

structure State where
  /-- Framer state (R11). -/
  fst : FramerState
  /-- Sequencer phase (R12). -/
  ph : Phase
  /-- Bytes of the current block received (R13). -/
  cnt : BitVec 5
  /-- End of stream met inside a block (R14). -/
  eosSeen : Bool
  /-- `KEY` has been written (R15). -/
  keyValid : Bool
  /-- Input block buffer `IBUF` (R16). -/
  ibuf : Block
  /-- The cipher key `KEY` (R17). -/
  key : Block
  /-- The expanded key `XK` (R18). -/
  xk : ExpandedKey
  /-- The state matrix `ST` (R19). -/
  st : StateMatrix
  /-- Output block buffer `OBUF` (R21). -/
  obuf : Block
  /-- Micro-program counter (R22). -/
  upc : BitVec 6
  /-- Bytes of `OBUF` already written out (R23). -/
  ocnt : BitVec 5
  /-- Exit status (R24). -/
  status : Byte
  /-- The bytes taken from the stream `in` so far, oldest first (R40, R47). -/
  taken : List Byte
  /-- The bytes written to the stream `out` so far, oldest first (R40, R47). -/
  out : List Byte
  /-- The model's own: the number of the coming edge, which selects the free sample of the pins on it (log entry 2). -/
  edge : Nat
  /-- The model's own: the output of the function unit last driven directly (log entry 8). -/
  funit : UnitOutput
  /-- The model's own: how many free bytes have been drawn (log entry 4). -/
  freeCtr : Nat
  deriving DecidableEq, Repr

/-- Why the machine stops. No state that the engine can reach raises any of them (R29, R191). -/
inductive Fault where
  /-- Raised by KEXPAND, ENCRYPT and USTEP at KEXPAND, with `key_valid` = 0: "a model that reaches `KEXPAND` with
  `key_valid = 0` has a defect and faults" (R105). Safe. -/
  | keyNotValid
  /-- Raised by USTEP with `upc` above 42: no such address exists (R22, R40, R41). Safe (log entry 14). -/
  | fetchOutsideRom
  /-- Raised by RXBYTE with `cnt` above 15: `IBUF` has no such byte (R13, R162). Safe (log entry 14). -/
  | inputIndex
  /-- Raised by TXBYTE(ok) with `ocnt` above 15: `OBUF` has no such byte (R23, R167). Safe (log entry 14). -/
  | outputIndex
  /-- Raised by LOADKEY, STARTBLK, BLOCKCOMPLETE and ENDPROGRAM when called outside the context their rules name
  (R150, R164 to R166). Safe (log entry 10). -/
  | outOfContext
  deriving DecidableEq, Repr

/-- Why the model gives no next state. -/
inductive Refusal where
  /-- Raised by an instruction that has no meaning yet, by its mnemonic. Safe. -/
  | notModelled (mnemonic : String)
  /-- Raised by a reserved word: "a model's step refuses to execute `reserved`" (R64, U2). Safe. -/
  | reservedWord (w : Byte)
  /-- Raised when the sequencer is given an operation that has no word; the decoder yields none (R60). Safe. -/
  | notMicroOperation
  /-- Raised by RCONLK and KSCORE with an index above 10 (R41, U3). Safe. -/
  | roundConstantIndex
  /-- Raised by RKSEL with a round above 10 (R41, U4). Safe. -/
  | roundKeyIndex
  /-- Raised by KEXPWORD with a word index outside 4 to 43 (R103). Safe (log entry 13). -/
  | scheduleWordIndex
  /-- Raised by ROUND r with r outside 1 to 9 (R69). Safe (log entry 13). -/
  | roundNumber
  /-- Raised by LOGLK(0): "a model that is asked for `LOGLK(0)` directly refuses" (R86, U5). Safe. -/
  | logarithmOfZero
  deriving DecidableEq, Repr

/-- What a step or a meaning answers. -/
abbrev Result := Host.Outcome State Fault Refusal

/-- The engine right after reset (70_reset_and_hazards.md R220; the reset column of 10_state.md R10). The spec leaves KEY, XK,
ST and OBUF unspecified there; zero is a DESIGN CHOICE (log entry 3), unsafe. Edge 1 is the first free one (log entry 2). -/
def State.reset : State :=
  { fst := .awaitingKey, ph := .recv, cnt := 0, eosSeen := false, keyValid := false, ibuf := zeroBlock,
    key := zeroBlock, xk := zeroExpandedKey, st := zeroMatrix, obuf := zeroBlock,
    upc := 0, ocnt := 0, status := Config.statusOk, taken := [], out := [],
    edge := 1, funit := .nothing, freeCtr := 0 }

end Sys2Proof.Machine
end

