-- ==== Sys2Proof/Machine/Flags.lean ====
section
/-! DEFINITION. Flags and pins. The engine has no condition codes (10_state.md R25); what it has are the control flags
`eos_seen` and `key_valid` (R14, R15), the handshake conditions (R31, R32) and the status word (R26, R33). -/

namespace Sys2Proof.Machine

/-- `eos_seen <- 1` (R14, R163). -/
def State.setEosSeen (s : State) : State := { s with eosSeen := true }

/-- The engine collects a block: the state's part of `in_ready` (R31). -/
def State.receiving (s : State) : Bool :=
  (s.fst == .awaitingKey || s.fst == .encrypting) && s.ph == .recv

/-- USTEP is enabled (R71, R149). -/
def State.executing (s : State) : Bool := s.fst == .encrypting && s.ph == .exec

/-- The engine offers a byte: the state's part of `out_valid` (R32). -/
def State.sending (s : State) : Bool := s.fst == .encrypting && s.ph == .send

/-- Pin `in_ready` (R31). -/
def inReady (p : Pins) (s : State) : Bool := !p.rst && s.receiving

/-- Pin `out_valid` (R32). -/
def outValid (p : Pins) (s : State) : Bool := !p.rst && s.sending

/-- Pin `out_data` (R32): `OBUF[ocnt]` while `out_valid` = 1, otherwise unspecified, which `none` says (log entry 15). -/
def outData (p : Pins) (s : State) : Option Byte := if outValid p s then s.obuf[s.ocnt.toNat]? else none

/-- The encoding of `fst` on its pins (R11, R33). -/
def FramerState.code : FramerState → BitVec 2
  | .awaitingKey => 0
  | .encrypting => 1
  | .done => 2
  | .fault => 3

/-- The encoding of `ph` (R12). -/
def Phase.code : Phase → BitVec 2
  | .recv => 0
  | .exec => 1
  | .send => 2

/-- The status word `STATUS[9:0] = (fst, status)` (R26). -/
def State.statusWord (s : State) : BitVec 10 := s.fst.code ++ s.status

end Sys2Proof.Machine
end

