-- ==== Sys2Proof/Machine/Galois.lean ====
section
/-! DEFINITION. The table lookups and the GF(2^8) multiplier (40_tables_gf.md R84 to R88). -/

namespace Sys2Proof.Machine

/-- `SBOXLK(a)` (R84). -/
def sboxLookup (a : Byte) : Byte := tableByte sboxTable a

/-- `RCONLK(i)`: RCON has addresses 0 to 10 (R40, R85); an index above is refused where it can be asked for (U3). -/
def rconLookup (i : Nat) : Byte := rconTable[i]?.getD 0x00

/-- `LOGLK(a)` (R86). -/
def logLookup (a : Byte) : Byte := tableByte logTable a

/-- `ALOGLK(e)` (R87). -/
def alogLookup (e : Byte) : Byte := tableByte alogTable e

/-- `GFMUL(a, b)` (R88): zero when an operand is zero, else the antilogarithm of the sum of the logarithms modulo 255, the sum
formed without wrapping. -/
def gfMul (a b : Byte) : Byte :=
  if a = 0x00 ∨ b = 0x00 then 0x00
  else alogLookup (BitVec.ofNat 8 (((logLookup a).toNat + (logLookup b).toNat) % 255))

end Sys2Proof.Machine
end

