-- ==== Sys2Proof/Machine/Operands.lean ====
section
/-! DEFINITION. Operands: reading and writing bytes of an array by number, the four-byte words of the key schedule, and the
mapping between a block and the state matrix (20_memory.md R42 to R45). The engine has no other operand form (30_encoding.md
R62). -/

namespace Sys2Proof.Machine

/-- Byte `i` of an array. Every use has `i` inside the array (R41); the 0x00 outside is never used. -/
def byteAt {n : Nat} (v : Vector Byte n) (i : Nat) : Byte := v[i]?.getD 0x00

/-- Word `n` of the schedule, bytes `4n` to `4n + 3` (R42). -/
def scheduleWord (xk : ExpandedKey) (n : Nat) : Word :=
  #v[byteAt xk (4 * n), byteAt xk (4 * n + 1), byteAt xk (4 * n + 2), byteAt xk (4 * n + 3)]

/-- The schedule with word `n` replaced (R42, R47). -/
def setScheduleWord (xk : ExpandedKey) (n : Nat) (w : Word) : ExpandedKey :=
  (((xk.setIfInBounds (4 * n) w[0]).setIfInBounds (4 * n + 1) w[1]).setIfInBounds (4 * n + 2) w[2]).setIfInBounds
    (4 * n + 3) w[3]

/-- Lane by lane exclusive or of two words (R9). -/
def xorWord (a b : Word) : Word := #v[a[0] ^^^ b[0], a[1] ^^^ b[1], a[2] ^^^ b[2], a[3] ^^^ b[3]]

/-- The matrix with the given entries, row first. -/
def matrixOf (f : Fin 4 → Fin 4 → Byte) : StateMatrix :=
  Vector.ofFn fun r => Vector.ofFn fun c => f r c

/-- `TOSTATE(b)`: column-major, `m[r][c] = b[r + 4*c]` (R44). -/
def toState (b : Block) : StateMatrix :=
  matrixOf fun r c => b[r.val + 4 * c.val]

/-- `FROMSTATE(m)`: `b[i] = m[i mod 4][i / 4]` (R45). -/
def fromState (m : StateMatrix) : Block :=
  Vector.ofFn fun i => (m[i.val % 4]'(by omega))[i.val / 4]'(by omega)

/-- Column `c` of a matrix, top to bottom (R122, R123). -/
def column (m : StateMatrix) (c : Fin 4) : Word := #v[m[0][c], m[1][c], m[2][c], m[3][c]]

/-- `RKSEL(xk, r)`: `TOSTATE(xk[16r .. 16r+15])` (41_key_schedule.md R106). A round above 10 is refused where it can be asked
for (U4). -/
def rkSel (xk : ExpandedKey) (r : Nat) : StateMatrix :=
  toState (Vector.ofFn fun i => byteAt xk (16 * r + i.val))

end Sys2Proof.Machine
end

