-- ==== Sys2Proof/Machine/KeySchedule.lean ====
section
/-! DEFINITION. The key-schedule expander (41_key_schedule.md R100 to R104) as functions. -/

namespace Sys2Proof.Machine

/-- `ROTWORD(w)` (R100): the first byte goes to the last place. -/
def rotWord (w : Word) : Word := #v[w[1], w[2], w[3], w[0]]

/-- `SUBWORD(w)` (R101). -/
def subWord (w : Word) : Word := #v[sboxLookup w[0], sboxLookup w[1], sboxLookup w[2], sboxLookup w[3]]

/-- `KSCORE(w, i)` (R102): rotate, substitute, then XOR the first byte with the round constant. -/
def ksCore (w : Word) (i : Nat) : Word :=
  let t := subWord (rotWord w)
  #v[t[0] ^^^ rconLookup i, t[1], t[2], t[3]]

/-- `KEXPWORD(xk, n)` (R103), `4 ≤ n ≤ 43`: the word 16 bytes prior XOR the word 4 bytes prior, the latter through the
key-schedule core at a 16-byte boundary, with iteration number `n / 4`. -/
def kexpWord (xk : ExpandedKey) (n : Nat) : Word :=
  let t := scheduleWord xk (n - 1)
  let t := if n % 4 = 0 then ksCore t (n / 4) else t
  xorWord (scheduleWord xk (n - 4)) t

/-- The schedule after `k` of its forty made words: the key as the first 16 bytes, then words 4 to `k + 3` in order (R104). -/
def expandWords (key : Block) : Nat → ExpandedKey
  | 0 => Vector.ofFn fun i => byteAt key i.val
  | k + 1 =>
    let xk := expandWords key k
    setScheduleWord xk (k + 4) (kexpWord xk (k + 4))

/-- `EXPAND(key)` (R104): "the same as `xk[4n .. 4n+3] = KEXPWORD(xk, n)` for `n` = 4, 5, ..., 43 in order". -/
def expand (key : Block) : ExpandedKey := expandWords key 40

end Sys2Proof.Machine
end

