-- ==== Sys2Proof/Machine/Ops.lean ====
section
/-! DEFINITION. The named operations over the address spaces and the registers, taking the one exception
(60_exceptions.md R193), and reset (70_reset_and_hazards.md R220). -/

namespace Sys2Proof.Machine

/-! ## The micro-program ROM -/

/-- The word at an address of `MPROM` from 0 to 42 (R66). The ROM is a constant, no part of the state (R27). -/
def romWord (a : Nat) : Byte := mpromImage[a]?.getD 0x00

/-! ## The address spaces (R40) -/

/-- The addressed spaces of R40. -/
inductive Space where
  | sbox
  | rcon
  | log
  | alog
  | xk
  | mprom
  deriving DecidableEq, Repr

/-- `MemRead(space, addr, 1)` (R9); `none` at an address the space does not have (R40, R41; log entry 18). All but `XK` are
constants (R27). -/
def memRead (s : State) : Space → Nat → Option Byte
  | .sbox, a => if a < 256 then some (sboxLookup (BitVec.ofNat 8 a)) else none
  | .rcon, a => rconTable[a]?
  | .log, a => if a < 256 then some (logLookup (BitVec.ofNat 8 a)) else none
  | .alog, a => if a < 256 then some (alogLookup (BitVec.ofNat 8 a)) else none
  | .xk, a => s.xk[a]?
  | .mprom, a => if a < Config.mpromDepth then some (romWord a) else none

/-- `MemWrite(XK, 0, 176, v)` (R9, R105): `XK` is the only writable space (R40). -/
def State.writeXk (s : State) (v : ExpandedKey) : State := { s with xk := v }

/-! ## The registers -/

/-- `upc <- upc + 1` (R22). The register has 6 bits and the engine never passes 43; driven directly past 63 it wraps.
DESIGN CHOICE (log entry 12), unsafe outside the invariants. -/
def State.advance (s : State) : State := { s with upc := s.upc + 1 }

/-- `ST <- m; upc <- upc + 1`: what LDSTATE and the four round primitives do (R125 to R128, R142). -/
def State.stepMatrix (s : State) (m : StateMatrix) : State := { s with st := m }.advance

/-- A class F function unit driven directly shows its result; nothing else changes (R60; log entry 8). -/
def State.drive (s : State) (v : UnitOutput) : State := { s with funit := v }

/-- `RECVINIT` (R160). -/
def State.recvInit (s : State) : State := { s with ibuf := zeroBlock, cnt := 0, ph := .recv }

/-- The pins on an edge by its number: free from edge 1 on. Nobody asserts anything on edge 0, which stands before every edge of a
run: a run starts at edge 1, and only `withFetchWord` goes to edge 0 (log entries 2, 7). -/
def pinsAt : Nat → Pins
  | 0 => .idle
  | n + 1 => Config.pins n

/-- The pins on the coming edge (log entry 2). -/
def State.pins (s : State) : Pins := pinsAt s.edge

/-- The coming edge passes (log entry 2). -/
def State.passEdge (s : State) : State := { s with edge := s.edge + 1 }

/-! ## The exception (R193) -/

/-- `raise OutputWriteFailure(n)` (R193): `status <- 0x01; fst <- FAULT`, and nothing else changes. `n` is `ocnt`, which keeps
it (R190). There is no return: only reset leaves FAULT (R196). -/
def State.raiseOutputWriteFailure (s : State) (_n : BitVec 5) : State :=
  { s with status := Config.statusOutputWriteFailure, fst := .fault }

/-! ## Reset (R220) -/

/-- Sixteen free bytes, numbered from `c` (log entry 4). -/
def freeBlock (c : Nat) : Block := Vector.ofFn fun i => Config.freeByte (c + i.val)

/-- `RESET` (R220): the control state, `status` and `IBUF` take their reset values; KEY, XK, ST and OBUF become unspecified,
here free values (log entry 4). The streams keep what was written (R221, R222), and the ROMs are no state. -/
def State.takeReset (s : State) : State :=
  { s with
    fst := .awaitingKey, eosSeen := false, keyValid := false, status := Config.statusOk, upc := 0, ocnt := 0,
    key := freeBlock s.freeCtr,
    xk := Vector.ofFn fun i => Config.freeByte (s.freeCtr + 16 + i.val),
    st := matrixOf fun r c => Config.freeByte (s.freeCtr + 192 + 4 * r.val + c.val),
    obuf := freeBlock (s.freeCtr + 208),
    freeCtr := s.freeCtr + 224 }.recvInit

end Sys2Proof.Machine
end

