-- ==== Sys2Proof/Machine/Framer.lean ====
section
/-! DEFINITION. The block framer: the events RXBYTE, RXEOS, TXBYTE and the procedures they call (44_block_framer.md R160,
R162 to R168), the exception (60_exceptions.md R193) and reset (70_reset_and_hazards.md R220). On an edge on which its handshake
is closed an event does not happen and nothing changes (10_state.md R31, R32; 60_exceptions.md R195; log entry 9). -/

namespace Sys2Proof.Machine

/-- `LOADKEY` (R165): the first block becomes the key. -/
def State.loadKey (s : State) : State :=
  { s with key := s.ibuf, keyValid := true, fst := if s.eosSeen then .done else .encrypting }.recvInit

/-- `STARTBLK` (R166). -/
def State.startBlk (s : State) : State := { s with upc := 0, ph := .exec }

/-- `BLOCKCOMPLETE` (R164): by framer state; it has no meaning in a terminal state (log entry 10). -/
def blockComplete (s : State) : Result :=
  match s.fst with
  | .awaitingKey => .next s.loadKey
  | .encrypting => .next s.startBlk
  | .done => .fault .outOfContext
  | .fault => .fault .outOfContext

/-- The byte part of RXBYTE: `IBUF[cnt] <- b; cnt <- cnt + 1`, the byte being consumed from `in` (R47, R162). -/
def State.takeByte (s : State) (b : Byte) : State :=
  { s with ibuf := s.ibuf.setIfInBounds s.cnt.toNat b, cnt := s.cnt + 1, taken := s.taken ++ [b] }

/-- `RXBYTE(b)` (R162). -/
def execRxByte (b : Byte) (s : State) : Result :=
  if s.receiving then
    if s.cnt.toNat ≤ 15 then
      if (s.takeByte b).cnt = 16 then blockComplete (s.takeByte b) else .next (s.takeByte b)
    else .fault .inputIndex
  else .next s

/-- `RXEOS` (R163). -/
def execRxEos (s : State) : Result :=
  if s.receiving then
    if s.cnt = 0 then .next { s with fst := .done } else blockComplete s.setEosSeen
  else .next s

/-- The byte part of TXBYTE(ok): `append OBUF[ocnt] to out; ocnt <- ocnt + 1` (R167). -/
def State.sendByte (s : State) (b : Byte) : State := { s with out := s.out ++ [b], ocnt := s.ocnt + 1 }

/-- The end of a block's output: to DONE when the stream has ended inside the block, else to the next block (R167). -/
def State.blockSent (s : State) : State := if s.eosSeen then { s with fst := .done } else s.recvInit

/-- `TXBYTE(ok)` (R167). -/
def execTxByteOk (s : State) : Result :=
  if s.sending then
    match s.obuf[s.ocnt.toNat]? with
    | some b => .next (if (s.sendByte b).ocnt = 16 then (s.sendByte b).blockSent else s.sendByte b)
    | none => .fault .outputIndex
  else .next s

/-- `TXBYTE(fail)` (R168): it takes the exception. -/
def execTxByteFail (s : State) : Result :=
  if s.sending then .next (s.raiseOutputWriteFailure s.ocnt) else .next s

/-- `RECVINIT` driven directly (R160). -/
def execRecvInit (s : State) : Result := .next s.recvInit

/-- `BLOCKCOMPLETE` driven directly (R164). -/
def execBlockComplete (s : State) : Result := blockComplete s

/-- `LOADKEY` driven directly (R165): its context is `fst = AWAITING_KEY` (log entry 10). -/
def execLoadKey (s : State) : Result :=
  if s.fst = .awaitingKey then .next s.loadKey else .fault .outOfContext

/-- `STARTBLK` driven directly (R166): its context is `fst = ENCRYPTING` (log entry 10). -/
def execStartBlk (s : State) : Result :=
  if s.fst = .encrypting then .next s.startBlk else .fault .outOfContext

/-- `raise OutputWriteFailure(n)` driven directly (R193). -/
def execRaiseOutputWriteFailure (n : BitVec 5) (s : State) : Result := .next (s.raiseOutputWriteFailure n)

/-- `RESET` (R220). -/
def execReset (s : State) : Result := .next s.takeReset

end Sys2Proof.Machine
end

