-- ==== Sys2Proof/Machine/Round.lean ====
section
/-! DEFINITION. The round primitives (42_round_transformation.md R120 to R124, R129) and the cipher (43_cipher_driver.md R140)
as functions. -/

namespace Sys2Proof.Machine

/-- `SUBBYTES_F(m)` (R120). -/
def subBytesF (m : StateMatrix) : StateMatrix := matrixOf fun r c => sboxLookup m[r][c]

/-- `SHIFTROWS_F(m)` (R121): `m[r][(c + r) mod 4]`. -/
def shiftRowsF (m : StateMatrix) : StateMatrix :=
  matrixOf fun r c => m[r][(c.val + r.val) % 4]'(by omega)

/-- `MIXCOL1(a)` (R122): the matrix times the column. -/
def mixCol1 (a : Word) : Word :=
  #v[gfMul 0x02 a[0] ^^^ gfMul 0x03 a[1] ^^^ gfMul 0x01 a[2] ^^^ gfMul 0x01 a[3],
    gfMul 0x01 a[0] ^^^ gfMul 0x02 a[1] ^^^ gfMul 0x03 a[2] ^^^ gfMul 0x01 a[3],
    gfMul 0x01 a[0] ^^^ gfMul 0x01 a[1] ^^^ gfMul 0x02 a[2] ^^^ gfMul 0x03 a[3],
    gfMul 0x03 a[0] ^^^ gfMul 0x01 a[1] ^^^ gfMul 0x01 a[2] ^^^ gfMul 0x02 a[3]]

/-- `MIXCOLUMNS_F(m)` (R123): each column by itself. -/
def mixColumnsF (m : StateMatrix) : StateMatrix := matrixOf fun r c => (mixCol1 (column m c))[r]

/-- `ADDROUNDKEY_F(m, k)` (R124). -/
def addRoundKeyF (m k : StateMatrix) : StateMatrix := matrixOf fun r c => m[r][c] ^^^ k[r][c]

/-- `ROUND_F(m, k)` (R129). -/
def roundF (m k : StateMatrix) : StateMatrix := addRoundKeyF (mixColumnsF (shiftRowsF (subBytesF m))) k

/-- The final round of R140, step 4: no MixColumns, round key 10. -/
def finalRoundF (m k : StateMatrix) : StateMatrix := addRoundKeyF (shiftRowsF (subBytesF m)) k

/-- Rounds 1 to `n` from the matrix `m` (R140, step 3). -/
def rounds (xk : ExpandedKey) (m : StateMatrix) : Nat → StateMatrix
  | 0 => m
  | n + 1 => roundF (rounds xk m n) (rkSel xk (n + 1))

/-- `ENCRYPTBLOCK(p, k)` (R140). -/
def encryptBlock (p k : Block) : Block :=
  let xk := expand k
  fromState (finalRoundF (rounds xk (addRoundKeyF (toState p) (rkSel xk 0)) 9) (rkSel xk 10))

end Sys2Proof.Machine
end

