-- ==== Sys2Proof/Machine/Functions.lean ====
section
/-! DEFINITION. The class F function units driven directly (30_encoding.md R60, R70): the unit shows the value of its function
and no register changes (log entry 8). -/

namespace Sys2Proof.Machine

/-- `SBOXLK(a)` (R84). -/
def execSboxlk (a : Byte) (s : State) : Result := .next (s.drive (.byte (sboxLookup a)))

/-- `RCONLK(i)` (R85); an index above 10 is refused (R41, U3). -/
def execRconlk (i : Nat) (s : State) : Result :=
  if i ≤ 10 then .next (s.drive (.byte (rconLookup i))) else .refused .roundConstantIndex

/-- `LOGLK(a)` (R86); zero is refused (U5). -/
def execLoglk (a : Byte) (s : State) : Result :=
  if a = 0x00 then .refused .logarithmOfZero else .next (s.drive (.byte (logLookup a)))

/-- `ALOGLK(e)` (R87); at 255 the filler of R83 is read (log entry 13). -/
def execAloglk (e : Byte) (s : State) : Result := .next (s.drive (.byte (alogLookup e)))

/-- `GFMUL(a, b)` (R88). -/
def execGfmul (a b : Byte) (s : State) : Result := .next (s.drive (.byte (gfMul a b)))

/-- `ROTWORD(w)` (R100). -/
def execRotWord (w : Word) (s : State) : Result := .next (s.drive (.word (rotWord w)))

/-- `SUBWORD(w)` (R101). -/
def execSubWord (w : Word) (s : State) : Result := .next (s.drive (.word (subWord w)))

/-- `KSCORE(w, i)` (R102); an index above 10 is refused (R41, U3). -/
def execKsCore (w : Word) (i : Nat) (s : State) : Result :=
  if i ≤ 10 then .next (s.drive (.word (ksCore w i))) else .refused .roundConstantIndex

/-- `KEXPWORD(xk, n)` (R103); an index outside 4 to 43 is refused (log entry 13). -/
def execKexpWord (xk : ExpandedKey) (n : Nat) (s : State) : Result :=
  if 4 ≤ n ∧ n ≤ 43 then .next (s.drive (.word (kexpWord xk n))) else .refused .scheduleWordIndex

/-- `EXPAND(key)` (R104). -/
def execExpand (key : Block) (s : State) : Result := .next (s.drive (.schedule (expand key)))

/-- `RKSEL(xk, r)` (R106); a round above 10 is refused (R41, U4). -/
def execRkSel (xk : ExpandedKey) (r : Nat) (s : State) : Result :=
  if r ≤ 10 then .next (s.drive (.matrix (rkSel xk r))) else .refused .roundKeyIndex

/-- `TOSTATE(b)` (R44). -/
def execToState (b : Block) (s : State) : Result := .next (s.drive (.matrix (toState b)))

/-- `FROMSTATE(m)` (R45). -/
def execFromState (m : StateMatrix) (s : State) : Result := .next (s.drive (.block (fromState m)))

/-- `SUBBYTES_F(m)` (R120). -/
def execSubBytesF (m : StateMatrix) (s : State) : Result := .next (s.drive (.matrix (subBytesF m)))

/-- `SHIFTROWS_F(m)` (R121). -/
def execShiftRowsF (m : StateMatrix) (s : State) : Result := .next (s.drive (.matrix (shiftRowsF m)))

/-- `MIXCOL1(a)` (R122). -/
def execMixCol1 (a : Word) (s : State) : Result := .next (s.drive (.word (mixCol1 a)))

/-- `MIXCOLUMNS_F(m)` (R123). -/
def execMixColumnsF (m : StateMatrix) (s : State) : Result := .next (s.drive (.matrix (mixColumnsF m)))

/-- `ADDROUNDKEY_F(m, k)` (R124). -/
def execAddRoundKeyF (m k : StateMatrix) (s : State) : Result := .next (s.drive (.matrix (addRoundKeyF m k)))

/-- `ROUND_F(m, k)` (R129). -/
def execRoundF (m k : StateMatrix) (s : State) : Result := .next (s.drive (.matrix (roundF m k)))

/-- `ENCRYPTBLOCK(p, k)` (R140). -/
def execEncryptBlock (p k : Block) (s : State) : Result := .next (s.drive (.block (encryptBlock p k)))

end Sys2Proof.Machine
end

