-- ==== Sys2Proof/Syntax.lean ====
section
/-! DEFINITION. The operations of the engine: one constructor for each row of spec/opcode_table.json, in the table's order
(30_encoding.md R60: class U, the pseudo-operations, class F, class E). -/

namespace Sys2Proof

/-- Every operation of the engine (30_encoding.md R60). Class U is encoded (R61 to R63), a pseudo-operation stands for a
sequence of class U operations (R69), class F and class E have no encoding (R70, R71). -/
inductive Instr where
  -- class U: the sequencer's micro-operations (R63)
  /-- `KEXPAND`, word 0x10 (R105). -/
  | kexpand
  /-- `LDSTATE`, word 0x20 (R142). -/
  | ldstate
  /-- `ADDROUNDKEY 0`, word 0x30 (R128). -/
  | addRoundKey0
  /-- `ADDROUNDKEY 1`, word 0x31 (R128). -/
  | addRoundKey1
  /-- `ADDROUNDKEY 2`, word 0x32 (R128). -/
  | addRoundKey2
  /-- `ADDROUNDKEY 3`, word 0x33 (R128). -/
  | addRoundKey3
  /-- `ADDROUNDKEY 4`, word 0x34 (R128). -/
  | addRoundKey4
  /-- `ADDROUNDKEY 5`, word 0x35 (R128). -/
  | addRoundKey5
  /-- `ADDROUNDKEY 6`, word 0x36 (R128). -/
  | addRoundKey6
  /-- `ADDROUNDKEY 7`, word 0x37 (R128). -/
  | addRoundKey7
  /-- `ADDROUNDKEY 8`, word 0x38 (R128). -/
  | addRoundKey8
  /-- `ADDROUNDKEY 9`, word 0x39 (R128). -/
  | addRoundKey9
  /-- `ADDROUNDKEY 10`, word 0x3A (R128). -/
  | addRoundKey10
  /-- `SUBBYTES`, word 0x40 (R125). -/
  | subBytes
  /-- `SHIFTROWS`, word 0x50 (R126). -/
  | shiftRows
  /-- `MIXCOLUMNS`, word 0x60 (R127). -/
  | mixColumns
  /-- `STSTATE`, word 0x70 (R143). -/
  | ststate
  /-- A reserved word: any of the 239 words that R63 does not list (R64). -/
  | reserved (w : Byte)
  -- pseudo-operations (R69)
  /-- `INITROUND`: `ADDROUNDKEY 0` (R69, R130). -/
  | initRound
  /-- `ROUND r`, r from 1 to 9 (R69, R130). -/
  | round (r : Nat)
  /-- `FINALROUND` (R69, R130). -/
  | finalRound
  /-- `ENCRYPT`: the 43 words of the micro-program (R69, R144). -/
  | encrypt
  -- class F: combinational function units (R70)
  /-- `SBOXLK(a)` (R84). -/
  | sboxlk (a : Byte)
  /-- `RCONLK(i)` (R85). -/
  | rconlk (i : Nat)
  /-- `LOGLK(a)` (R86). -/
  | loglk (a : Byte)
  /-- `ALOGLK(e)` (R87). -/
  | aloglk (e : Byte)
  /-- `GFMUL(a, b)` (R88). -/
  | gfmul (a b : Byte)
  /-- `ROTWORD(w)` (R100). -/
  | rotWord (w : Word)
  /-- `SUBWORD(w)` (R101). -/
  | subWord (w : Word)
  /-- `KSCORE(w, i)` (R102). -/
  | ksCore (w : Word) (i : Nat)
  /-- `KEXPWORD(xk, n)` (R103): bytes 0 to `4n - 1` of `xk` are the schedule so far. -/
  | kexpWord (xk : ExpandedKey) (n : Nat)
  /-- `EXPAND(key)` (R104). -/
  | expand (key : Block)
  /-- `RKSEL(xk, r)` (R106). -/
  | rkSel (xk : ExpandedKey) (r : Nat)
  /-- `TOSTATE(b)` (R44). -/
  | toState (b : Block)
  /-- `FROMSTATE(m)` (R45). -/
  | fromState (m : StateMatrix)
  /-- `SUBBYTES_F(m)` (R120). -/
  | subBytesF (m : StateMatrix)
  /-- `SHIFTROWS_F(m)` (R121). -/
  | shiftRowsF (m : StateMatrix)
  /-- `MIXCOL1(a)` (R122). -/
  | mixCol1 (a : Word)
  /-- `MIXCOLUMNS_F(m)` (R123). -/
  | mixColumnsF (m : StateMatrix)
  /-- `ADDROUNDKEY_F(m, k)` (R124). -/
  | addRoundKeyF (m k : StateMatrix)
  /-- `ROUND_F(m, k)` (R129). -/
  | roundF (m k : StateMatrix)
  /-- `ENCRYPTBLOCK(p, k)` (R140). -/
  | encryptBlock (p k : Block)
  -- class E: framer events and procedures (R71)
  /-- `RXBYTE(b)` (R162). -/
  | rxByte (b : Byte)
  /-- `RXEOS` (R163). -/
  | rxEos
  /-- `USTEP` (R149). -/
  | ustep
  /-- `TXBYTE(ok)` (R167). -/
  | txByteOk
  /-- `TXBYTE(fail)` (R168). -/
  | txByteFail
  /-- `RECVINIT` (R160). -/
  | recvInit
  /-- `BLOCKCOMPLETE` (R164). -/
  | blockComplete
  /-- `LOADKEY` (R165). -/
  | loadKey
  /-- `STARTBLK` (R166). -/
  | startBlk
  /-- `ENDPROGRAM` (R150). -/
  | endProgram
  /-- `RESET` (R220). -/
  | reset
  /-- `raise OutputWriteFailure(n)`, `n` the index of the byte that failed (R193). -/
  | raiseOutputWriteFailure (n : BitVec 5)
  deriving DecidableEq, Repr

end Sys2Proof
end

