-- ==== Sys2Proof/WellFormed.lean ====
section
/-! DEFINITION. Which terms of Instr the spec names: the ranges of the operands. -/

namespace Sys2Proof

/-- The seventeen legal micro-operation words (30_encoding.md R63). -/
def legalWords : List Byte :=
  [0x10, 0x20, 0x30, 0x31, 0x32, 0x33, 0x34, 0x35, 0x36, 0x37, 0x38, 0x39, 0x3A, 0x40, 0x50, 0x60, 0x70]

/-- The operands lie in the ranges the spec states for them: `reserved` holds a word that R63 does not list (R64), `ROUND r`
has r from 1 to 9 (R69), a round constant index is 1 to 10 (R85, R102), the logarithm's operand is not zero (R86), the
antilogarithm's is at most 254 (R87), a schedule word's index is 4 to 43 (R103), a round key's 0 to 10 (R106), the index of
a failed byte 0 to 15 (R190). -/
def Instr.wellFormed : Instr → Bool
  | .reserved w => !legalWords.contains w
  | .round r => decide (1 ≤ r) && decide (r ≤ 9)
  | .rconlk i => decide (1 ≤ i) && decide (i ≤ 10)
  | .loglk a => a != 0x00
  | .aloglk e => decide (e.toNat ≤ 254)
  | .ksCore _ i => decide (1 ≤ i) && decide (i ≤ 10)
  | .kexpWord _ n => decide (4 ≤ n) && decide (n ≤ 43)
  | .rkSel _ r => decide (r ≤ 10)
  | .raiseOutputWriteFailure n => decide (n.toNat ≤ 15)
  | .kexpand | .ldstate | .addRoundKey0 | .addRoundKey1 | .addRoundKey2 | .addRoundKey3 | .addRoundKey4
  | .addRoundKey5 | .addRoundKey6 | .addRoundKey7 | .addRoundKey8 | .addRoundKey9 | .addRoundKey10
  | .subBytes | .shiftRows | .mixColumns | .ststate => true
  | .initRound | .finalRound | .encrypt => true
  | .sboxlk _ | .gfmul _ _ | .rotWord _ | .subWord _ | .expand _ | .toState _ | .fromState _ | .subBytesF _
  | .shiftRowsF _ | .mixCol1 _ | .mixColumnsF _ | .addRoundKeyF _ _ | .roundF _ _ | .encryptBlock _ _ => true
  | .rxByte _ | .rxEos | .ustep | .txByteOk | .txByteFail | .recvInit | .blockComplete | .loadKey | .startBlk
  | .endProgram | .reset => true

end Sys2Proof
end

