-- ==== Sys2Proof/Decode.lean ====
section
/-! DEFINITION. The micro-operation word (30_encoding.md R61 to R64), its decoder and its encoder, and the expansions of the
pseudo-operations (R69). -/

namespace Sys2Proof

/-- `op = word[7:4]` (R61). -/
def opField (w : Byte) : BitVec 4 := w.extractLsb' 4 4

/-- `arg = word[3:0]` (R61). -/
def argField (w : Byte) : BitVec 4 := w.extractLsb' 0 4

/-- The word with the given fields (R61). -/
def wordOf (op arg : BitVec 4) : Byte := op ++ arg

/-- `ADDROUNDKEY r` for the operand field, `none` for a field above 10 (R62, R64). -/
def decodeAddRoundKey (arg : BitVec 4) : Option Instr :=
  match arg.toNat with
  | 0 => some .addRoundKey0
  | 1 => some .addRoundKey1
  | 2 => some .addRoundKey2
  | 3 => some .addRoundKey3
  | 4 => some .addRoundKey4
  | 5 => some .addRoundKey5
  | 6 => some .addRoundKey6
  | 7 => some .addRoundKey7
  | 8 => some .addRoundKey8
  | 9 => some .addRoundKey9
  | 10 => some .addRoundKey10
  | _ => none

/-- An operation whose `arg` field must be 0 (R61). -/
def decodePlain (i : Instr) (arg : BitVec 4) : Option Instr :=
  if arg = 0 then some i else none

/-- The rows of the opcode map R63: `none` for a reserved word. -/
def decodeLegal (w : Byte) : Option Instr :=
  match (opField w).toNat with
  | 1 => decodePlain .kexpand (argField w)
  | 2 => decodePlain .ldstate (argField w)
  | 3 => decodeAddRoundKey (argField w)
  | 4 => decodePlain .subBytes (argField w)
  | 5 => decodePlain .shiftRows (argField w)
  | 6 => decodePlain .mixColumns (argField w)
  | 7 => decodePlain .ststate (argField w)
  | _ => none

/-- The decoder, total over the 256 words: the row of R63 for a legal word and `reserved` for every other (R64). -/
def decode (w : Byte) : Instr :=
  (decodeLegal w).getD (.reserved w)

/-- The decoder on bytes as `MPROM` holds them, lowest address first: one word is one byte (R40, R61). -/
def decodeBytes : List Byte → Option (Instr × List Byte)
  | [] => none
  | w :: rest => some (decode w, rest)

/-- `ADDROUNDKEY r` as an instruction; above round 10 the reserved word that its field would make (R62, R64). -/
def addRoundKeyInstr (r : Nat) : Instr :=
  decode (wordOf 3 (BitVec.ofNat 4 r))

/-- The composite round of R69: `SUBBYTES; SHIFTROWS; MIXCOLUMNS; ADDROUNDKEY r`. -/
def roundOps (r : Nat) : List Instr :=
  [.subBytes, .shiftRows, .mixColumns, addRoundKeyInstr r]

/-- The final round of R69: `SUBBYTES; SHIFTROWS; ADDROUNDKEY 10`. -/
def finalRoundOps : List Instr :=
  [.subBytes, .shiftRows, .addRoundKey10]

/-- `ENCRYPT` (R69): `KEXPAND; LDSTATE; INITROUND; ROUND 1; …; ROUND 9; FINALROUND; STSTATE`. -/
def encryptOps : List Instr :=
  [.kexpand, .ldstate, .addRoundKey0] ++ roundOps 1 ++ roundOps 2 ++ roundOps 3 ++ roundOps 4 ++ roundOps 5 ++
    roundOps 6 ++ roundOps 7 ++ roundOps 8 ++ roundOps 9 ++ finalRoundOps ++ [.ststate]

/-- The word of a class U operation or of a reserved word; `none` for an operation with no word of its own (R63, R70). -/
def encodeWord : Instr → Option Byte
  | .kexpand => some (wordOf 1 0)
  | .ldstate => some (wordOf 2 0)
  | .addRoundKey0 => some (wordOf 3 0)
  | .addRoundKey1 => some (wordOf 3 1)
  | .addRoundKey2 => some (wordOf 3 2)
  | .addRoundKey3 => some (wordOf 3 3)
  | .addRoundKey4 => some (wordOf 3 4)
  | .addRoundKey5 => some (wordOf 3 5)
  | .addRoundKey6 => some (wordOf 3 6)
  | .addRoundKey7 => some (wordOf 3 7)
  | .addRoundKey8 => some (wordOf 3 8)
  | .addRoundKey9 => some (wordOf 3 9)
  | .addRoundKey10 => some (wordOf 3 10)
  | .subBytes => some (wordOf 4 0)
  | .shiftRows => some (wordOf 5 0)
  | .mixColumns => some (wordOf 6 0)
  | .ststate => some (wordOf 7 0)
  | .reserved w => some w
  | .initRound | .round _ | .finalRound | .encrypt => none
  | .sboxlk _ | .rconlk _ | .loglk _ | .aloglk _ | .gfmul _ _ | .rotWord _ | .subWord _ | .ksCore _ _ | .kexpWord _ _
  | .expand _ | .rkSel _ _ | .toState _ | .fromState _ | .subBytesF _ | .shiftRowsF _ | .mixCol1 _ | .mixColumnsF _
  | .addRoundKeyF _ _ | .roundF _ _ | .encryptBlock _ _ => none
  | .rxByte _ | .rxEos | .ustep | .txByteOk | .txByteFail | .recvInit | .blockComplete | .loadKey | .startBlk
  | .endProgram | .reset | .raiseOutputWriteFailure _ => none

/-- What an operation expands to: itself for a class U operation, the sequence of R69 for a pseudo-operation, nothing for
the unencoded classes F and E (R70). -/
def expansion : Instr → List Instr
  | .initRound => [.addRoundKey0]
  | .round r => roundOps r
  | .finalRound => finalRoundOps
  | .encrypt => encryptOps
  | i => if (encodeWord i).isSome then [i] else []

/-- The words of an operation, lowest address first: the encoder. -/
def encode (i : Instr) : List Byte :=
  (expansion i).filterMap encodeWord

/-- The instruction the decoder reads from a word of the opcode table: `nbits` bits (8, the one length there is, R61),
bit 0 the least significant. -/
def decodeTableWord (nbits w : Nat) : Option Instr :=
  if nbits = 8 ∧ w < 256 then (decodeBytes [BitVec.ofNat 8 w]).map Prod.fst else none

end Sys2Proof
end

