-- ==== Sys2Proof/Machine/MicroOps.lean ====
section
/-! DEFINITION. The class U micro-operations (41_key_schedule.md R105, 42_round_transformation.md R125 to R128,
43_cipher_driver.md R142, R143) and the reserved words (30_encoding.md R64). Driven directly they run in every framer state;
that the sequencer runs them in phase EXEC only is USTEP's rule (R149; log entry 11). -/

namespace Sys2Proof.Machine

/-- `KEXPAND` (R105): `XK <- EXPAND(KEY)`; it requires `key_valid` = 1. -/
def execKexpand (s : State) : Result :=
  if s.keyValid then .next (s.writeXk (expand s.key)).advance else .fault .keyNotValid

/-- `LDSTATE` (R142). -/
def execLdstate (s : State) : Result := .next (s.stepMatrix (toState s.ibuf))

/-- `ADDROUNDKEY r` (R128), for every round. -/
def addRoundKeyStep (r : Nat) (s : State) : Result := .next (s.stepMatrix (addRoundKeyF s.st (rkSel s.xk r)))

/-- `ADDROUNDKEY 0` (R128). -/
def execAddRoundKey0 (s : State) : Result := addRoundKeyStep 0 s
/-- `ADDROUNDKEY 1` (R128). -/
def execAddRoundKey1 (s : State) : Result := addRoundKeyStep 1 s
/-- `ADDROUNDKEY 2` (R128). -/
def execAddRoundKey2 (s : State) : Result := addRoundKeyStep 2 s
/-- `ADDROUNDKEY 3` (R128). -/
def execAddRoundKey3 (s : State) : Result := addRoundKeyStep 3 s
/-- `ADDROUNDKEY 4` (R128). -/
def execAddRoundKey4 (s : State) : Result := addRoundKeyStep 4 s
/-- `ADDROUNDKEY 5` (R128). -/
def execAddRoundKey5 (s : State) : Result := addRoundKeyStep 5 s
/-- `ADDROUNDKEY 6` (R128). -/
def execAddRoundKey6 (s : State) : Result := addRoundKeyStep 6 s
/-- `ADDROUNDKEY 7` (R128). -/
def execAddRoundKey7 (s : State) : Result := addRoundKeyStep 7 s
/-- `ADDROUNDKEY 8` (R128). -/
def execAddRoundKey8 (s : State) : Result := addRoundKeyStep 8 s
/-- `ADDROUNDKEY 9` (R128). -/
def execAddRoundKey9 (s : State) : Result := addRoundKeyStep 9 s
/-- `ADDROUNDKEY 10` (R128). -/
def execAddRoundKey10 (s : State) : Result := addRoundKeyStep 10 s

/-- `SUBBYTES` (R125). -/
def execSubBytes (s : State) : Result := .next (s.stepMatrix (subBytesF s.st))

/-- `SHIFTROWS` (R126). -/
def execShiftRows (s : State) : Result := .next (s.stepMatrix (shiftRowsF s.st))

/-- `MIXCOLUMNS` (R127). -/
def execMixColumns (s : State) : Result := .next (s.stepMatrix (mixColumnsF s.st))

/-- `STSTATE` (R143): `OBUF <- FROMSTATE(ST)`; `ST` is left unchanged. -/
def execStstate (s : State) : Result := .next { s with obuf := fromState s.st }.advance

/-- A reserved word is never executed (R64, U2). -/
def execReserved (w : Byte) (_s : State) : Result := .refused (.reservedWord w)

/-- The micro-operation that a decoded word is (R63, R149). The decoder yields class U operations and reserved words only. -/
def execMicro (i : Instr) (s : State) : Result :=
  match i with
  | .kexpand => execKexpand s
  | .ldstate => execLdstate s
  | .addRoundKey0 => execAddRoundKey0 s
  | .addRoundKey1 => execAddRoundKey1 s
  | .addRoundKey2 => execAddRoundKey2 s
  | .addRoundKey3 => execAddRoundKey3 s
  | .addRoundKey4 => execAddRoundKey4 s
  | .addRoundKey5 => execAddRoundKey5 s
  | .addRoundKey6 => execAddRoundKey6 s
  | .addRoundKey7 => execAddRoundKey7 s
  | .addRoundKey8 => execAddRoundKey8 s
  | .addRoundKey9 => execAddRoundKey9 s
  | .addRoundKey10 => execAddRoundKey10 s
  | .subBytes => execSubBytes s
  | .shiftRows => execShiftRows s
  | .mixColumns => execMixColumns s
  | .ststate => execStstate s
  | .reserved w => execReserved w s
  | .initRound | .round _ | .finalRound | .encrypt => .refused .notMicroOperation
  | .sboxlk _ | .rconlk _ | .loglk _ | .aloglk _ | .gfmul _ _ | .rotWord _ | .subWord _ | .ksCore _ _ | .kexpWord _ _
  | .expand _ | .rkSel _ _ | .toState _ | .fromState _ | .subBytesF _ | .shiftRowsF _ | .mixCol1 _ | .mixColumnsF _
  | .addRoundKeyF _ _ | .roundF _ _ | .encryptBlock _ _ => .refused .notMicroOperation
  | .rxByte _ | .rxEos | .ustep | .txByteOk | .txByteFail | .recvInit | .blockComplete | .loadKey | .startBlk
  | .endProgram | .reset | .raiseOutputWriteFailure _ => .refused .notMicroOperation

/-- Micro-operations one after another, stopping at the first that stops. -/
def runMicro : List Instr → State → Result
  | [], s => .next s
  | i :: rest, s =>
    match execMicro i s with
    | .next t => runMicro rest t
    | .fault f => .fault f
    | .refused r => .refused r

end Sys2Proof.Machine
end

