-- ==== Sys2Proof/Machine/Sequencer.lean ====
section
/-! DEFINITION. The sequencer step USTEP and ENDPROGRAM (43_cipher_driver.md R149, R150), and the pseudo-operations
(30_encoding.md R69, 42_round_transformation.md R130, 43_cipher_driver.md R144). -/

namespace Sys2Proof.Machine

/-- `ENDPROGRAM` (R150): `ph <- SEND; ocnt <- 0`. -/
def State.endProgram (s : State) : State := { s with ph := .send, ocnt := 0 }

/-- `if upc = 43: ENDPROGRAM()`, in the same step (R149, R150). -/
def finishAt43 : Result → Result
  | .next s => if s.upc = 43 then .next s.endProgram else .next s
  | .fault f => .fault f
  | .refused r => .refused r

/-- `w = MemRead(MPROM, upc, 1)` (R149). -/
def fetchWord (s : State) : Option Byte := memRead s .mprom s.upc.toNat

/-- `USTEP` (R149): fetch, decode, execute, and end the program when `upc` has become 43. It is enabled exactly when
`fst = ENCRYPTING` and `ph = EXEC`; otherwise it does not happen (R71; log entry 9). -/
def execUstep (s : State) : Result :=
  if s.executing then
    match fetchWord s with
    | some w => finishAt43 (execMicro (decode w) s)
    | none => .fault .fetchOutsideRom
  else .next s

/-- `ENDPROGRAM` driven directly (R150): its context is `upc` = 43 (log entry 10). -/
def execEndProgram (s : State) : Result :=
  if s.upc = 43 then .next s.endProgram else .fault .outOfContext

/-- `INITROUND` (R69, R130): `ADDROUNDKEY 0`. -/
def execInitRound (s : State) : Result := runMicro (expansion .initRound) s

/-- `ROUND r` (R69, R130), r from 1 to 9. -/
def execRound (r : Nat) (s : State) : Result :=
  if 1 ≤ r ∧ r ≤ 9 then runMicro (expansion (.round r)) s else .refused .roundNumber

/-- `FINALROUND` (R69, R130). -/
def execFinalRound (s : State) : Result := runMicro (expansion .finalRound) s

/-- `ENCRYPT` (R69, R144): the 43 micro-operations, and the end of the program when they have made `upc` 43, as P4 of
95_test_vectors.md has it (log entry 19). -/
def execEncrypt (s : State) : Result := finishAt43 (runMicro (expansion .encrypt) s)

end Sys2Proof.Machine
end

