-- ==== Sys2Proof/Machine/Dispatch.lean ====
section
/-! DEFINITION. One arm for each constructor of Instr. -/

namespace Sys2Proof.Machine

def exec (i : Instr) (s : State) : Host.Outcome State Fault Refusal :=
  match i with
  -- class U
  | .kexpand => Sys2Proof.Machine.execKexpand s
  | .ldstate => Sys2Proof.Machine.execLdstate s
  | .addRoundKey0 => Sys2Proof.Machine.execAddRoundKey0 s
  | .addRoundKey1 => Sys2Proof.Machine.execAddRoundKey1 s
  | .addRoundKey2 => Sys2Proof.Machine.execAddRoundKey2 s
  | .addRoundKey3 => Sys2Proof.Machine.execAddRoundKey3 s
  | .addRoundKey4 => Sys2Proof.Machine.execAddRoundKey4 s
  | .addRoundKey5 => Sys2Proof.Machine.execAddRoundKey5 s
  | .addRoundKey6 => Sys2Proof.Machine.execAddRoundKey6 s
  | .addRoundKey7 => Sys2Proof.Machine.execAddRoundKey7 s
  | .addRoundKey8 => Sys2Proof.Machine.execAddRoundKey8 s
  | .addRoundKey9 => Sys2Proof.Machine.execAddRoundKey9 s
  | .addRoundKey10 => Sys2Proof.Machine.execAddRoundKey10 s
  | .subBytes => Sys2Proof.Machine.execSubBytes s
  | .shiftRows => Sys2Proof.Machine.execShiftRows s
  | .mixColumns => Sys2Proof.Machine.execMixColumns s
  | .ststate => Sys2Proof.Machine.execStstate s
  | .reserved w => Sys2Proof.Machine.execReserved w s
  -- pseudo-operations
  | .initRound => Sys2Proof.Machine.execInitRound s
  | .round r => Sys2Proof.Machine.execRound r s
  | .finalRound => Sys2Proof.Machine.execFinalRound s
  | .encrypt => Sys2Proof.Machine.execEncrypt s
  -- class F
  | .sboxlk a => Sys2Proof.Machine.execSboxlk a s
  | .rconlk r => Sys2Proof.Machine.execRconlk r s
  | .loglk a => Sys2Proof.Machine.execLoglk a s
  | .aloglk e => Sys2Proof.Machine.execAloglk e s
  | .gfmul a b => Sys2Proof.Machine.execGfmul a b s
  | .rotWord w => Sys2Proof.Machine.execRotWord w s
  | .subWord w => Sys2Proof.Machine.execSubWord w s
  | .ksCore w r => Sys2Proof.Machine.execKsCore w r s
  | .kexpWord xk n => Sys2Proof.Machine.execKexpWord xk n s
  | .expand key => Sys2Proof.Machine.execExpand key s
  | .rkSel xk r => Sys2Proof.Machine.execRkSel xk r s
  | .toState b => Sys2Proof.Machine.execToState b s
  | .fromState m => Sys2Proof.Machine.execFromState m s
  | .subBytesF m => Sys2Proof.Machine.execSubBytesF m s
  | .shiftRowsF m => Sys2Proof.Machine.execShiftRowsF m s
  | .mixCol1 a => Sys2Proof.Machine.execMixCol1 a s
  | .mixColumnsF m => Sys2Proof.Machine.execMixColumnsF m s
  | .addRoundKeyF m k => Sys2Proof.Machine.execAddRoundKeyF m k s
  | .roundF m k => Sys2Proof.Machine.execRoundF m k s
  | .encryptBlock p k => Sys2Proof.Machine.execEncryptBlock p k s
  -- class E
  | .rxByte b => Sys2Proof.Machine.execRxByte b s
  | .rxEos => Sys2Proof.Machine.execRxEos s
  | .ustep => Sys2Proof.Machine.execUstep s
  | .txByteOk => Sys2Proof.Machine.execTxByteOk s
  | .txByteFail => Sys2Proof.Machine.execTxByteFail s
  | .recvInit => Sys2Proof.Machine.execRecvInit s
  | .blockComplete => Sys2Proof.Machine.execBlockComplete s
  | .loadKey => Sys2Proof.Machine.execLoadKey s
  | .startBlk => Sys2Proof.Machine.execStartBlk s
  | .endProgram => Sys2Proof.Machine.execEndProgram s
  | .reset => Sys2Proof.Machine.execReset s
  | .raiseOutputWriteFailure n => Sys2Proof.Machine.execRaiseOutputWriteFailure n s

end Sys2Proof.Machine
end

