-- ==== Sys2Proof/Machine/Select.lean ====
section
/-! DEFINITION. Which event happens on a rising edge (30_encoding.md R71; 10_state.md R31, R32; 60_exceptions.md R195). -/

namespace Sys2Proof.Machine

/-- R71: the event that the pins and the state select, `none` for a wait or a terminal state. `rst` overrides every row
(R220), `in_valid` wins over `in_eos` (R31), `out_err` over `out_ready` (R32). -/
def selectEvent (p : Pins) (s : State) : Option Instr :=
  if p.rst then some .reset
  else if s.receiving then
    if p.inValid then some (.rxByte p.inData) else if p.inEos then some .rxEos else none
  else if s.executing then some .ustep
  else if s.sending then
    if p.outErr then some .txByteFail else if p.outReady then some .txByteOk else none
  else none

end Sys2Proof.Machine
end

