-- ==== Sys2Proof/Machine/Edge.lean ====
section
/-! DEFINITION. One rising edge of `clk` on given pins, and a sequence of them: the engine as a transition system over its state whose
labels the environment chooses (10_state.md R34). -/

namespace Sys2Proof.Machine

/-- One rising edge on the pins `p`: the pins and the state select at most one event (R71), and it happens. -/
def onEdge (p : Pins) (s : State) : Result :=
  match selectEvent p s with
  | some i => exec i s
  | none => .next s

/-- The edges of a list, first to last, stopping at the first fault or refusal. -/
def onEdges : List Pins → State → Result
  | [], s => .next s
  | p :: l, s =>
    match onEdge p s with
    | .next t => onEdges l t
    | .fault f => .fault f
    | .refused r => .refused r

end Sys2Proof.Machine
end

