-- ==== Sys2Proof/Machine/Step.lean ====
section
/-! DEFINITION. One step: one rising edge of `clk` (10_state.md R34; log entries 1, 2). -/

namespace Sys2Proof.Machine

/-- One step is the coming rising edge, on the pins that the environment has put on it. -/
def step (s : State) : Host.Outcome State Fault Refusal :=
  onEdge s.pins s.passEdge

/-- The address from which the sequencer can fetch a word: `upc` when the ROM holds it there, else the first address that holds it,
and 43, where nothing is fetched, when none does (a reserved word, R64). -/
def fetchAddress (upc : BitVec 6) (w : Byte) : BitVec 6 :=
  if mpromImage[upc.toNat]? = some w then upc else BitVec.ofNat 6 (mpromImage.idxOf w)

/-- `s` about to fetch the word: the micro-program is a ROM (R27, R55), so the word is selected there, not stored. Phase EXEC in
ENCRYPTING, `key_valid` as R29 item 2 has it there, `upc` at an address that holds the word, and the idle edge 0 next (log entries
2, 6, 7). -/
def State.withFetchWord (s : State) (nbits w : Nat) : State :=
  { s with
    fst := .encrypting, ph := .exec, keyValid := true,
    upc := fetchAddress s.upc (BitVec.ofNat 8 (w % 2 ^ nbits)),
    edge := 0 }

end Sys2Proof.Machine
end

