-- ==== Sys2Proof/Safety.lean ====
section
/-! DEFINITION. The terms that claims are stated in: the invariants of 10_state.md R29, the progress of the micro-program, the
whole-stream function of 44_block_framer.md R175, and the other forms in which the spec gives the field arithmetic
(40_tables_gf.md R80, R83, R89) and the key schedule (41_key_schedule.md R104). -/

namespace Sys2Proof.Machine

/-! ## The invariants R29 -/

/-- The seven invariants of R29, item by item. -/
structure Invariants (s : State) : Prop where
  /-- Item 1. -/
  awaiting : s.fst = .awaitingKey →
    s.ph = .recv ∧ s.keyValid = false ∧ s.status = 0x00 ∧ s.eosSeen = false
  /-- Item 2. -/
  encrypting : s.fst = .encrypting → s.keyValid = true ∧ s.status = 0x00
  /-- Item 3. -/
  receiving : s.ph = .recv → s.fst = .awaitingKey ∨ s.fst = .encrypting →
    s.cnt.toNat ≤ 15 ∧ s.eosSeen = false ∧ ∀ i : Fin 16, s.cnt.toNat ≤ i.val → s.ibuf[i] = 0x00
  /-- Item 4. -/
  executing : s.ph = .exec →
    s.fst = .encrypting ∧ 1 ≤ s.cnt.toNat ∧ s.cnt.toNat ≤ 16 ∧ s.upc.toNat ≤ 42
  /-- Item 5. -/
  sending : s.ph = .send → s.fst = .encrypting →
    s.ocnt.toNat ≤ 15 ∧ s.obuf = encryptBlock s.ibuf s.key
  /-- Item 6. -/
  faultStatus : s.fst = .fault ↔ s.status = 0x01
  /-- Item 7. -/
  doneStatus : s.fst = .done → s.status = 0x00

/-- The first `j` primitives of a full round, `j` from 0 to 3 (R129). -/
def partRound (m : StateMatrix) : Nat → StateMatrix
  | 0 => m
  | 1 => subBytesF m
  | 2 => shiftRowsF (subBytesF m)
  | _ => mixColumnsF (shiftRowsF (subBytesF m))

/-- What `ST` holds when `upc` is `u`, 2 to 43, in the micro-program of block `p` under key `k` (R66, R140). -/
def matrixAt (p k : Block) (u : Nat) : StateMatrix :=
  let xk := expand k
  let m := addRoundKeyF (toState p) (rkSel xk 0)
  if u ≤ 2 then toState p
  else if u ≤ 41 then partRound (rounds xk m ((u - 3) / 4)) ((u - 3) % 4)
  else finalRoundF (rounds xk m 9) (rkSel xk 10)

/-- The invariants R29 with what makes them inductive: how far the micro-program has come (R144). -/
structure Inv (s : State) : Prop where
  r29 : Invariants s
  /-- After `MPROM[0]`, `XK` is the expansion of `KEY` (R18, R105). -/
  schedule : s.ph = .exec → 1 ≤ s.upc.toNat → s.xk = expand s.key
  /-- After `MPROM[1]`, `ST` is the state of the cipher so far (R144). -/
  matrix : s.ph = .exec → 2 ≤ s.upc.toNat → s.st = matrixAt s.ibuf s.key s.upc.toNat

/-! ## The whole-stream function R175 -/

/-- `B = ceil(n / 16)` (R175). -/
def blockCount (n : Nat) : Nat := (n + 15) / 16

/-- Block `j` of a stream, the bytes beyond its end taken as 0x00 (R175). -/
def streamBlock (l : List Byte) (j : Nat) : Block := Vector.ofFn fun i => l.getD (16 * j + i.val) 0x00

/-- Blocks 1 to B - 1, each encrypted under block 0, in order (R175). -/
def streamOut (l : List Byte) : List Byte :=
  ((List.range (blockCount l.length)).drop 1).flatMap fun j =>
    (encryptBlock (streamBlock l j) (streamBlock l 0)).toList

/-- How many bytes of `in` belong to blocks already handled: all but the `cnt` bytes of the current block (R13, R46). -/
def handledLength (s : State) : Nat := s.taken.length - s.cnt.toNat

/-- The streams agree with R175 as far as the run has come, from one reset on: what is in KEY and IBUF is what was taken from
`in`, and what is on `out` is the encryption of the blocks handled, and of the current one as far as it has been written. -/
structure StreamInv (s : State) : Prop where
  inv : Inv s
  awaiting : s.fst = .awaitingKey →
    s.taken.length = s.cnt.toNat ∧ s.ibuf = streamBlock s.taken 0 ∧ s.out = []
  /-- Blocks are aligned to the stream (R46), the first is the key (R43). -/
  blocks : s.fst = .encrypting →
    s.cnt.toNat ≤ s.taken.length ∧ 16 ≤ handledLength s ∧ handledLength s % 16 = 0 ∧
      s.key = streamBlock s.taken 0 ∧ s.ibuf = streamBlock s.taken (handledLength s / 16)
  /-- Only the end of the stream shortens a block (R173). -/
  whole : s.fst = .encrypting → s.ph ≠ .recv →
    1 ≤ s.cnt.toNat ∧ s.cnt.toNat ≤ 16 ∧ (s.cnt.toNat = 16 ∨ s.eosSeen = true)
  /-- Nothing of the current block is written before phase SEND (R51, R174). -/
  before : s.fst = .encrypting → s.ph ≠ .send → s.out = streamOut (s.taken.take (handledLength s))
  /-- In phase SEND its first `ocnt` bytes are (R52, R167). -/
  during : s.fst = .encrypting → s.ph = .send →
    s.out = streamOut (s.taken.take (handledLength s)) ++ s.obuf.toList.take s.ocnt.toNat
  /-- At DONE the output is the function of the whole input (R175). -/
  finished : s.fst = .done → s.out = streamOut s.taken
  /-- At FAULT, with `f` bytes written, they are the first `f` of that function, more were due, and exactly the blocks up to
  the one being written have been taken (R175, R194). -/
  failed : s.fst = .fault →
    s.out = (streamOut s.taken).take s.out.length ∧ s.out.length < (streamOut s.taken).length ∧
      (s.taken.length = 16 * (s.out.length / 16 + 2) ∨
        (s.eosSeen = true ∧ blockCount s.taken.length = s.out.length / 16 + 2))

/-- The same of the stream that began at the last reset (R222): `before` was taken and `beforeOut` written earlier. -/
def StreamSince (before beforeOut : List Byte) (s : State) : Prop :=
  ∃ l m : List Byte, s.taken = before ++ l ∧ s.out = beforeOut ++ m ∧ StreamInv { s with taken := l, out := m }

/-! ## Other forms of the field arithmetic -/

/-- `xtime(v)` (R83): shift left, and reduce with 0x1B when bit 7 was set. -/
def xtime (v : Byte) : Byte := if v.getLsbD 7 then (v <<< 1) ^^^ 0x1B else v <<< 1

/-- The lowest `n` bits of `a`, as a polynomial, times `b` modulo 0x11B by shift and XOR (R89 item 4). -/
def shiftXorUpTo (a b : Byte) : Nat → Byte
  | 0 => 0x00
  | n + 1 => shiftXorUpTo a b n ^^^ (if a.getLsbD n then (Nat.iterate xtime n) b else 0x00)

/-- Carry-less polynomial multiplication followed by reduction modulo 0x11B (R89 item 4). -/
def carrylessMul (a b : Byte) : Byte := shiftXorUpTo a b 8

/-- `0x03^e` in the field (R82, R83). -/
def powerOfThree : Nat → Byte
  | 0 => 0x01
  | e + 1 => powerOfThree e ^^^ xtime (powerOfThree e)

/-- The affine map of R80's closed form on the inverse `b`. -/
def sboxAffine (b : Byte) : Byte :=
  b ^^^ b.rotateLeft 1 ^^^ b.rotateLeft 2 ^^^ b.rotateLeft 3 ^^^ b.rotateLeft 4 ^^^ 0x63

/-! ## The key schedule as AESDOC's loop -/

/-- The `while pos < 176` loop of R104, `fuel` times: `i` the iteration counter, `pos` the bytes produced so far. -/
def expandLoop : Nat → Nat → Nat → ExpandedKey → ExpandedKey
  | 0, _, _, xk => xk
  | fuel + 1, i, pos, xk =>
    if pos < 176 then
      let t := scheduleWord xk ((pos - 4) / 4)
      let u := if pos % 16 = 0 then ksCore t i else t
      let i' := if pos % 16 = 0 then i + 1 else i
      expandLoop fuel i' (pos + 4) (setScheduleWord xk (pos / 4) (xorWord (scheduleWord xk ((pos - 16) / 4)) u))
    else xk

/-- Lane by lane exclusive or of two matrices (R9). -/
def xorMatrix (m n : StateMatrix) : StateMatrix := matrixOf fun r c => m[r][c] ^^^ n[r][c]

/-- Lane by lane exclusive or of two blocks (R9). -/
def xorBlock (p q : Block) : Block := Vector.ofFn fun i => p[i] ^^^ q[i]

end Sys2Proof.Machine
end

