-- ==== Sys2Proof/Certificates/Slice0/Obligations.lean ====
section
/-! DEFINITION. The statements for the provers. A statement about every state holds in states that no run reaches; where it needs
an invariant, that is a premise of it. No statement rests on a value of a free byte or on the zeros of `State.reset`. -/

open Sys2Proof Sys2Proof.Machine

/-! ## Encoding (30_encoding.md) -/

/-- R63: the seventeen legal words and their rows; every other word is reserved. -/
def Obligations.LegalWordsDecodeToTheirRows : Prop :=
  decode 0x10 = .kexpand ∧ decode 0x20 = .ldstate ∧
  decode 0x30 = .addRoundKey0 ∧ decode 0x31 = .addRoundKey1 ∧ decode 0x32 = .addRoundKey2 ∧
  decode 0x33 = .addRoundKey3 ∧ decode 0x34 = .addRoundKey4 ∧ decode 0x35 = .addRoundKey5 ∧
  decode 0x36 = .addRoundKey6 ∧ decode 0x37 = .addRoundKey7 ∧ decode 0x38 = .addRoundKey8 ∧
  decode 0x39 = .addRoundKey9 ∧ decode 0x3A = .addRoundKey10 ∧
  decode 0x40 = .subBytes ∧ decode 0x50 = .shiftRows ∧ decode 0x60 = .mixColumns ∧ decode 0x70 = .ststate ∧
  ∀ w : Byte,
    w ∉ ([0x10, 0x20, 0x30, 0x31, 0x32, 0x33, 0x34, 0x35, 0x36, 0x37, 0x38, 0x39, 0x3A, 0x40, 0x50, 0x60, 0x70] : List Byte) →
      decode w = .reserved w

/-- R64: a word is reserved exactly by its fields; the decoder says so, the step refuses it, and the micro-program holds
none. -/
def Obligations.ReservedWordsAreRefused : Prop :=
  (∀ op arg : BitVec 4,
    (op = 0 ∨ 8 ≤ op.toNat ∨ ((op = 1 ∨ op = 2 ∨ op = 4 ∨ op = 5 ∨ op = 6 ∨ op = 7) ∧ arg ≠ 0) ∨
        (op = 3 ∧ 11 ≤ arg.toNat)) ↔
      decode (op ++ arg) = .reserved (op ++ arg)) ∧
  (∀ (w : Byte) (s : State), exec (.reserved w) s = .refused (.reservedWord w)) ∧
  ∀ (s : State) (a : Nat), a ≤ 42 →
    ∃ w : Byte, memRead s .mprom a = some w ∧ decode w ≠ .reserved w

/-- Decode and encode agree, for every well-formed instruction: the word of an encoded one decodes to it, the words of a
pseudo-operation decode to its expansion, the unencoded classes have no word; and every word is the word of what it decodes
to. -/
def Obligations.DecodeAndEncodeAgree : Prop :=
  (∀ i : Instr, i.wellFormed = true →
    (∀ w : Byte, encodeWord i = some w →
      encode i = [w] ∧ decode w = i ∧ decodeTableWord 8 w.toNat = some i) ∧
    (encode i).map decode = expansion i ∧
    ∀ j ∈ expansion i, j.wellFormed = true ∧ (encodeWord j).isSome) ∧
  ∀ w : Byte, (decode w).wellFormed = true ∧ encodeWord (decode w) = some w

/-- R69: the four pseudo-operations have no word of their own, and by the words they expand to; those of ENCRYPT are the
micro-program's. -/
def Obligations.PseudoOperationsExpand : Prop :=
  encode .initRound = [0x30] ∧
  (∀ r : Nat, 1 ≤ r → r ≤ 9 → encode (.round r) = [0x40, 0x50, 0x60, BitVec.ofNat 8 (0x30 + r)]) ∧
  encode .finalRound = [0x40, 0x50, 0x3A] ∧
  (encode .encrypt).length = 43 ∧
  (∀ (s : State) (a : Nat), memRead s .mprom a = (encode .encrypt)[a]?) ∧
  encodeWord .initRound = none ∧ (∀ r : Nat, encodeWord (.round r) = none) ∧ encodeWord .finalRound = none ∧
  encodeWord .encrypt = none

/-- R66: the micro-program ROM, address by address; nothing stands above address 42. -/
def Obligations.MicroProgramIsTheCipherSequence : Prop :=
  ∀ s : State,
    memRead s .mprom 0 = some 0x10 ∧ memRead s .mprom 1 = some 0x20 ∧ memRead s .mprom 2 = some 0x30 ∧
    (∀ r : Nat, 1 ≤ r → r ≤ 9 →
      memRead s .mprom (3 + 4 * (r - 1)) = some 0x40 ∧ memRead s .mprom (4 + 4 * (r - 1)) = some 0x50 ∧
      memRead s .mprom (5 + 4 * (r - 1)) = some 0x60 ∧
      memRead s .mprom (6 + 4 * (r - 1)) = some (BitVec.ofNat 8 (0x30 + r))) ∧
    memRead s .mprom 39 = some 0x40 ∧ memRead s .mprom 40 = some 0x50 ∧ memRead s .mprom 41 = some 0x3A ∧
    memRead s .mprom 42 = some 0x70 ∧ ∀ a : Nat, 43 ≤ a → memRead s .mprom a = none

/-! ## The step -/

/-- R71: the event of each row, and what the edge makes of it, whatever the pins; `rst` overrides every row (R220). Together the rows
cover every state but AWAITING_KEY outside RECV, which R29 item 1 excludes, and no two of them can hold at once. (That one step is
one edge, on the sample of the pins that the number of the edge selects, is the model's own, log entries 1 and 2.) -/
def Obligations.EventSelectionTable : Prop :=
  (∀ (p : Pins) (s : State),
    (p.rst = true → onEdge p s = exec .reset s) ∧
    (p.rst = false →
      ((s.fst = .awaitingKey ∨ s.fst = .encrypting) → s.ph = .recv →
        (p.inValid = true → onEdge p s = exec (.rxByte p.inData) s) ∧
        (p.inValid = false → p.inEos = true → onEdge p s = exec .rxEos s) ∧
        (p.inValid = false → p.inEos = false → onEdge p s = .next s)) ∧
      (s.fst = .encrypting → s.ph = .exec → onEdge p s = exec .ustep s) ∧
      (s.fst = .encrypting → s.ph = .send →
        (p.outErr = true → onEdge p s = exec .txByteFail s) ∧
        (p.outErr = false → p.outReady = true → onEdge p s = exec .txByteOk s) ∧
        (p.outErr = false → p.outReady = false → onEdge p s = .next s)) ∧
      (s.fst = .done ∨ s.fst = .fault → onEdge p s = .next s))) ∧
  ∀ s : State, step s = onEdge s.pins { s with edge := s.edge + 1 }

/-- R149, R150: in phase EXEC a step, and an edge on any pins but reset, runs the instruction that the word at `upc` decodes to, and
ends the program in the same step when that has made `upc` 43. -/
def Obligations.StepRunsTheFetchedWord : Prop :=
  ∀ (p : Pins) (s : State) (w : Byte),
    s.fst = .encrypting → s.ph = .exec → memRead s .mprom s.upc.toNat = some w →
    (p.rst = false →
      onEdge p s =
        match exec (decode w) s with
        | .next t => if t.upc = 43 then .next { t with ph := .send, ocnt := 0 } else .next t
        | .fault f => .fault f
        | .refused r => .refused r) ∧
    (s.pins.rst = false →
      step s =
        match exec (decode w) { s with edge := s.edge + 1 } with
        | .next t => if t.upc = 43 then .next { t with ph := .send, ocnt := 0 } else .next t
        | .fault f => .fault f
        | .refused r => .refused r)

/-- A word selected by `withFetchWord` is the instruction that the very next step runs, on a state that differs from `s` in what
the fetch needs only; a reserved word stands at no address and is not run. (The model's own: log entries 2, 6 and 7.) -/
def Obligations.PlacedWordRunsNext : Prop :=
  ∀ (s : State) (w : Byte),
    let t := s.withFetchWord 8 w.toNat
    (decode w ≠ .reserved w →
      memRead t .mprom t.upc.toNat = some w ∧ step t = finishAt43 (exec (decode w) { t with edge := 1 })) ∧
    (decode w = .reserved w → step t = .fault .fetchOutsideRom) ∧
    t = { s with fst := .encrypting, ph := .exec, keyValid := true, upc := t.upc, edge := 0 } ∧
    (memRead s .mprom s.upc.toNat = some w → t.upc = s.upc)

/-! ## Class U: the micro-operations -/

/-- R105: KEXPAND, word 0x10 at address 0, with `key_valid` = 1 writes the expansion of KEY to XK and advances `upc`; with
`key_valid` = 0 it faults. -/
def Obligations.KexpandWritesTheSchedule : Prop :=
  decode 0x10 = .kexpand ∧ (∀ s : State, memRead s .mprom 0 = some 0x10) ∧
  ∀ s : State,
    (s.keyValid = true → exec .kexpand s = .next { s with xk := expand s.key, upc := s.upc + 1 }) ∧
    (s.keyValid = false → exec .kexpand s = .fault .keyNotValid)

/-- R142: LDSTATE, entry by entry, and its frame. -/
def Obligations.LdstateLoadsColumnMajor : Prop :=
  decode 0x20 = .ldstate ∧
  ∀ s : State, ∃ m : StateMatrix,
    exec .ldstate s = .next { s with st := m, upc := s.upc + 1 } ∧
    ∀ i : Fin 16, (m[i.val % 4]'(by omega))[i.val / 4]'(by omega) = s.ibuf[i]

/-- R143: STSTATE, entry by entry, and its frame. -/
def Obligations.StstateStoresColumnMajor : Prop :=
  decode 0x70 = .ststate ∧
  ∀ s : State, ∃ b : Block,
    exec .ststate s = .next { s with obuf := b, upc := s.upc + 1 } ∧
    ∀ i : Fin 16, b[i] = (s.st[i.val % 4]'(by omega))[i.val / 4]'(by omega)

/-- R125: SUBBYTES, entry by entry, and its frame. -/
def Obligations.SubBytesReplacesEveryByte : Prop :=
  decode 0x40 = .subBytes ∧
  (∀ s : State, ∃ m : StateMatrix,
    exec .subBytes s = .next { s with st := m, upc := s.upc + 1 } ∧
    ∀ r c : Fin 4, memRead s .sbox s.st[r][c].toNat = some m[r][c]) ∧
  ∀ s : State, (∀ r c : Fin 4, s.st[r][c] = 0x00) →
    ∃ t : State, exec .subBytes s = .next t ∧ ∀ r c : Fin 4, t.st[r][c] = 0x63

/-- R126: SHIFTROWS, entry by entry, and its frame. -/
def Obligations.ShiftRowsRotatesRowsLeft : Prop :=
  decode 0x50 = .shiftRows ∧
  ∀ s : State, ∃ m : StateMatrix,
    exec .shiftRows s = .next { s with st := m, upc := s.upc + 1 } ∧
    ∀ r c : Fin 4, m[r][c] = s.st[r][(c.val + r.val) % 4]'(by omega)

/-- R127 with R122: MIXCOLUMNS by shift and XOR, entry by entry, and its frame; it occurs nine times in the micro-program, in rounds
1 to 9. -/
def Obligations.MixColumnsMultipliesEveryColumn : Prop :=
  decode 0x60 = .mixColumns ∧
  (∀ s : State, ∃ m : StateMatrix,
    exec .mixColumns s = .next { s with st := m, upc := s.upc + 1 } ∧
    ∀ c : Fin 4,
      m[0][c] = xtime s.st[0][c] ^^^ (xtime s.st[1][c] ^^^ s.st[1][c]) ^^^ s.st[2][c] ^^^ s.st[3][c] ∧
      m[1][c] = s.st[0][c] ^^^ xtime s.st[1][c] ^^^ (xtime s.st[2][c] ^^^ s.st[2][c]) ^^^ s.st[3][c] ∧
      m[2][c] = s.st[0][c] ^^^ s.st[1][c] ^^^ xtime s.st[2][c] ^^^ (xtime s.st[3][c] ^^^ s.st[3][c]) ∧
      m[3][c] = (xtime s.st[0][c] ^^^ s.st[0][c]) ^^^ s.st[1][c] ^^^ s.st[2][c] ^^^ xtime s.st[3][c]) ∧
  ∀ (s : State) (a : Nat),
    memRead s .mprom a = some 0x60 ↔ ∃ r : Nat, 1 ≤ r ∧ r ≤ 9 ∧ a = 5 + 4 * (r - 1)

/-- R128: ADDROUNDKEY r for the eleven rounds, entry by entry, and its frame; each occurs once in the micro-program, in order. -/
def Obligations.AddRoundKeyCombinesTheRoundKey : Prop :=
  (∀ (i : Instr) (r : Nat),
    (i, r) ∈ ([(.addRoundKey0, 0), (.addRoundKey1, 1), (.addRoundKey2, 2), (.addRoundKey3, 3), (.addRoundKey4, 4),
      (.addRoundKey5, 5), (.addRoundKey6, 6), (.addRoundKey7, 7), (.addRoundKey8, 8), (.addRoundKey9, 9),
      (.addRoundKey10, 10)] : List (Instr × Nat)) →
    decode (BitVec.ofNat 8 (0x30 + r)) = i ∧
    ∀ s : State, ∃ m : StateMatrix,
      exec i s = .next { s with st := m, upc := s.upc + 1 } ∧
      ∀ row col : Fin 4, ∃ k : Byte, memRead s .xk (16 * r + row.val + 4 * col.val) = some k ∧
        m[row][col] = s.st[row][col] ^^^ k) ∧
  (∀ r : Nat, 11 ≤ r → r ≤ 15 →
    decode (BitVec.ofNat 8 (0x30 + r)) = .reserved (BitVec.ofNat 8 (0x30 + r))) ∧
  ∀ (s : State) (r a : Nat), r ≤ 10 →
    (memRead s .mprom a = some (BitVec.ofNat 8 (0x30 + r)) ↔ a = if r = 10 then 41 else 4 * r + 2)

/-- The class U operations by name: each answers a next state that differs in XK, ST or OBUF and in `upc` only. -/
def Obligations.MicroOperationsFrame : Prop :=
  ∀ (i : Instr) (s t : State),
    i ∈ ([.kexpand, .ldstate, .addRoundKey0, .addRoundKey1, .addRoundKey2, .addRoundKey3, .addRoundKey4, .addRoundKey5,
      .addRoundKey6, .addRoundKey7, .addRoundKey8, .addRoundKey9, .addRoundKey10, .subBytes, .shiftRows, .mixColumns,
      .ststate] : List Instr) →
    exec i s = .next t →
    t = { s with xk := t.xk, st := t.st, obuf := t.obuf, upc := s.upc + 1 } ∧
    (i ≠ .kexpand → t.xk = s.xk) ∧ (i ≠ .ststate → t.obuf = s.obuf) ∧
    (i = .kexpand ∨ i = .ststate → t.st = s.st)

/-- R130, the spec's own inference from R125 to R129 and R69: the pseudo-operations INITROUND, ROUND r and FINALROUND, by their effect
and their frame. (That one exec runs the whole expansion, and does not end the program at 43, is the model's reading, log entry
19; ROUND outside 1 to 9 is in OperandsAndContextsOutsideTheRules.) -/
def Obligations.RoundPseudoOperationsCompose : Prop :=
  ∀ s : State,
    exec .initRound s = .next { s with st := addRoundKeyF s.st (rkSel s.xk 0), upc := s.upc + 1 } ∧
    exec .initRound s = exec .addRoundKey0 s ∧
    (∀ r : Nat, 1 ≤ r → r ≤ 9 →
      exec (.round r) s = .next { s with st := roundF s.st (rkSel s.xk r), upc := s.upc + 4 }) ∧
    exec .finalRound s =
      .next { s with st := addRoundKeyF (shiftRowsF (subBytesF s.st)) (rkSel s.xk 10), upc := s.upc + 3 }

/-- R144 of the pseudo-operation ENCRYPT: it computes the cipher, and the rest is unchanged; from `upc` = 0 it ends the program too.
Without a valid key it faults as KEXPAND does (R105). (That one exec of the expansion ends the program at 43 is the model's reading,
log entry 19; a start elsewhere than at 0 is log entries 11 and 12.) -/
def Obligations.EncryptComputesTheCipher : Prop :=
  ∀ s : State,
    (s.keyValid = true → s.upc = 0 →
      exec .encrypt s = .next { s with
        xk := expand s.key, obuf := encryptBlock s.ibuf s.key, st := toState (encryptBlock s.ibuf s.key),
        upc := 43, ph := .send, ocnt := 0 }) ∧
    (s.keyValid = true → s.upc ≠ 0 →
      exec .encrypt s = .next { s with
        xk := expand s.key, obuf := encryptBlock s.ibuf s.key, st := toState (encryptBlock s.ibuf s.key),
        upc := s.upc + 43 }) ∧
    (s.keyValid = false → exec .encrypt s = .fault .keyNotValid)

/-- R144 and R150 of the sequencer: 43 edges, with any pins but reset, run the micro-program from 0 to its end and compute the
cipher; KEY, IBUF, `fst`, `cnt`, `eos_seen`, `key_valid`, `status` and the streams are unchanged. After three of them the state
is the block XOR the key. The order of KEXPAND and LDSTATE is not observable. (One USTEP is one edge: the model's own, log entry 1.) -/
def Obligations.MicroProgramComputesTheCipher : Prop :=
  ∀ (s : State) (l : List Pins), s.fst = .encrypting → s.ph = .exec → s.upc = 0 → s.keyValid = true →
    l.length = 43 → (∀ p ∈ l, p.rst = false) →
    runMicro [.kexpand, .ldstate] s = runMicro [.ldstate, .kexpand] s ∧
    (∃ t : State, onEdges (l.take 3) s = .next t ∧ t.upc = 3 ∧ t.st = toState (xorBlock s.ibuf s.key)) ∧
    onEdges l s = .next { s with
      xk := expand s.key, obuf := encryptBlock s.ibuf s.key, st := toState (encryptBlock s.ibuf s.key),
      upc := 43, ph := .send, ocnt := 0 }

/-! ## Class F: tables and the field (40_tables_gf.md)

That a class F operation driven directly shows its value in `funit` and changes nothing else is the model's own (log entry 8); the
value is the rule's. -/

/-- R80, R84: SBOXLK answers the affine map of the multiplicative inverse (of 0 for 0). -/
def Obligations.SboxIsInverseThenAffine : Prop :=
  ∀ (s : State) (a b : Byte), (a = 0x00 → b = 0x00) → (a ≠ 0x00 → carrylessMul a b = 0x01) →
    exec (.sboxlk a) s = .next { s with funit := .byte (sboxAffine b) }

/-- R84, R80: SBOXLK answers what the ROM holds at its operand, for every operand; only 0x52 gives zero; the table is a permutation
with no fixed point and no opposite fixed point. -/
def Obligations.SboxLookupIsAPermutation : Prop :=
  (∀ (s : State) (a : Byte), ∃ v : Byte,
    memRead s .sbox a.toNat = some v ∧ exec (.sboxlk a) s = .next { s with funit := .byte v }) ∧
  (∀ s : State, exec (.sboxlk 0x00) s = .next { s with funit := .byte 0x63 } ∧
    exec (.sboxlk 0x53) s = .next { s with funit := .byte 0xED }) ∧
  (∀ a : Byte, sboxLookup a = 0x00 ↔ a = 0x52) ∧
  Function.Bijective sboxLookup ∧ ∀ a : Byte, sboxLookup a ≠ a ∧ sboxLookup a ≠ a ^^^ 0xFF

/-- R85, R81: RCONLK answers what the ROM holds, x^(i-1) for the iterations 1 to 10. -/
def Obligations.RconIsPowersOfTwo : Prop :=
  ∀ (s : State) (i : Nat), 1 ≤ i → i ≤ 10 → ∃ v : Byte,
    memRead s .rcon i = some v ∧ exec (.rconlk i) s = .next { s with funit := .byte v } ∧
    v = (Nat.iterate xtime (i - 1)) 0x01

/-- R82, R83, R86, R87: ALOGLK answers what the ROM holds at e, 0x03^e, and LOGLK, of a non-zero byte, the one e below 255 with
0x03^e = a; the logarithm of zero is refused (U5); the fillers. -/
def Obligations.LogarithmsAreToBaseThree : Prop :=
  ∀ s : State,
    (∀ e : Byte, e.toNat ≤ 254 → ∃ v : Byte,
      memRead s .alog e.toNat = some v ∧ exec (.aloglk e) s = .next { s with funit := .byte v } ∧
      v = powerOfThree e.toNat ∧ v ≠ 0x00) ∧
    (∀ a : Byte, a ≠ 0x00 → ∃ v : Byte,
      memRead s .log a.toNat = some v ∧ exec (.loglk a) s = .next { s with funit := .byte v } ∧
      v.toNat ≤ 254 ∧ powerOfThree v.toNat = a ∧ ∀ e : Nat, e ≤ 254 → powerOfThree e = a → e = v.toNat) ∧
    exec (.loglk 0x00) s = .refused .logarithmOfZero ∧
    memRead s .log 0 = some 0x00 ∧ memRead s .alog 255 = some 0x01

/-- R88, R89 item 4: GFMUL is zero on a zero operand, else the antilogarithm of the sum of the logarithms modulo 255; for all
operands it is carry-less multiplication reduced modulo 0x11B. -/
def Obligations.GfmulIsCarrylessProduct : Prop :=
  ∀ (s : State) (a b : Byte), ∃ v : Byte,
    exec (.gfmul a b) s = .next { s with funit := .byte v } ∧ v = carrylessMul a b ∧
    (a = 0x00 ∨ b = 0x00 → v = 0x00) ∧
    (a ≠ 0x00 → b ≠ 0x00 → ∃ x y : Byte, memRead s .log a.toNat = some x ∧ memRead s .log b.toNat = some y ∧
      memRead s .alog ((x.toNat + y.toNat) % 255) = some v)

/-- R89: the laws of GFMUL, items 1 to 4. -/
def Obligations.GfmulIsAFieldProduct : Prop :=
  (∀ a : Byte, gfMul a 0x01 = a ∧ gfMul a 0x00 = 0x00 ∧ gfMul 0x00 a = 0x00) ∧
  (∀ a b : Byte, gfMul a b = gfMul b a) ∧
  (∀ a b c : Byte, gfMul (gfMul a b) c = gfMul a (gfMul b c)) ∧
  (∀ a b c : Byte, gfMul a (b ^^^ c) = gfMul a b ^^^ gfMul a c) ∧
  (∀ a b : Byte, gfMul a b = 0x00 → a = 0x00 ∨ b = 0x00) ∧
  (∀ a : Byte, gfMul a 0x02 = xtime a ∧ gfMul a 0x03 = xtime a ^^^ a)

/-! ## Class F: the key schedule (41_key_schedule.md) -/

/-- R100, R101: ROTWORD and SUBWORD. -/
def Obligations.RotateAndSubstituteWord : Prop :=
  ∀ (s : State) (w0 w1 w2 w3 : Byte),
    exec (.rotWord #v[w0, w1, w2, w3]) s = .next { s with funit := .word #v[w1, w2, w3, w0] } ∧
    exec (.subWord #v[w0, w1, w2, w3]) s =
      .next { s with funit := .word #v[sboxLookup w0, sboxLookup w1, sboxLookup w2, sboxLookup w3] }

/-- R102: KSCORE for the iterations 1 to 10: the constant goes onto the first byte of the rotated word. -/
def Obligations.KeyScheduleCore : Prop :=
  ∀ (s : State) (w0 w1 w2 w3 : Byte) (i : Nat), 1 ≤ i → i ≤ 10 → ∃ k : Byte, memRead s .rcon i = some k ∧
    exec (.ksCore #v[w0, w1, w2, w3] i) s =
      .next { s with funit := .word #v[sboxLookup w1 ^^^ k, sboxLookup w2, sboxLookup w3, sboxLookup w0] }

/-- R103: KEXPWORD for words 4 to 43. -/
def Obligations.ScheduleWordRule : Prop :=
  ∀ (s : State) (xk : ExpandedKey) (n : Nat), 4 ≤ n → n ≤ 43 →
    ∃ w : Word, exec (.kexpWord xk n) s = .next { s with funit := .word w } ∧
      (n % 4 ≠ 0 → ∀ (j : Nat) (hj : j < 4), w[j] = byteAt xk (4 * n - 16 + j) ^^^ byteAt xk (4 * n - 4 + j)) ∧
      (n % 4 = 0 →
        w[0] = byteAt xk (4 * n - 16) ^^^ (sboxLookup (byteAt xk (4 * n - 3)) ^^^ rconLookup (n / 4)) ∧
        w[1] = byteAt xk (4 * n - 15) ^^^ sboxLookup (byteAt xk (4 * n - 2)) ∧
        w[2] = byteAt xk (4 * n - 14) ^^^ sboxLookup (byteAt xk (4 * n - 1)) ∧
        w[3] = byteAt xk (4 * n - 13) ^^^ sboxLookup (byteAt xk (4 * n - 4)))

/-- R104: EXPAND is AESDOC's loop, and the loop makes every word by KEXPWORD: the first sixteen bytes are the key and word n of
the result is KEXPWORD of the result. -/
def Obligations.ExpandIsTheLoop : Prop :=
  ∀ (s : State) (key : Block), ∃ xk : ExpandedKey,
    exec (.expand key) s = .next { s with funit := .schedule xk } ∧
    (∀ start : ExpandedKey, (∀ i : Fin 16, byteAt start i.val = key[i]) → expandLoop 40 1 16 start = xk) ∧
    (∀ i : Fin 16, byteAt xk i.val = key[i]) ∧
    ∀ n : Nat, 4 ≤ n → n ≤ 43 → scheduleWord xk n = kexpWord xk n

/-- R106: RKSEL, entry by entry, for the rounds 0 to 10; above 10 it is refused (U4). -/
def Obligations.RoundKeySelection : Prop :=
  ∀ (s : State) (xk : ExpandedKey) (r : Nat),
    (∀ hr : r ≤ 10, ∃ m : StateMatrix, exec (.rkSel xk r) s = .next { s with funit := .matrix m } ∧
      ∀ row col : Fin 4, m[row][col] = xk[16 * r + row.val + 4 * col.val]'(by omega)) ∧
    (10 < r → exec (.rkSel xk r) s = .refused .roundKeyIndex)

/-! ## Class F: blocks, matrices, rounds (20_memory.md, 42_round_transformation.md, 43_cipher_driver.md) -/

/-- R44, R45: TOSTATE and FROMSTATE, entry by entry, and that they undo each other. -/
def Obligations.BlockMatrixMapping : Prop :=
  ∀ (s : State) (b : Block) (m : StateMatrix),
    (∃ n : StateMatrix, exec (.toState b) s = .next { s with funit := .matrix n } ∧
      (∀ r c : Fin 4, n[r][c] = b[r.val + 4 * c.val]) ∧ exec (.fromState n) s = .next { s with funit := .block b }) ∧
    (∃ d : Block, exec (.fromState m) s = .next { s with funit := .block d } ∧
      (∀ i : Fin 16, d[i] = (m[i.val % 4]'(by omega))[i.val / 4]'(by omega)) ∧
      exec (.toState d) s = .next { s with funit := .matrix m })

/-- R120, R121, R124: SUBBYTES_F, SHIFTROWS_F and ADDROUNDKEY_F, entry by entry; SHIFTROWS_F also on the block form. -/
def Obligations.MatrixFunctionsByEntry : Prop :=
  ∀ (s : State) (m k : StateMatrix),
    (∃ n : StateMatrix, exec (.subBytesF m) s = .next { s with funit := .matrix n } ∧
      ∀ r c : Fin 4, n[r][c] = sboxLookup m[r][c]) ∧
    (∃ n : StateMatrix, exec (.shiftRowsF m) s = .next { s with funit := .matrix n } ∧
      (∀ r c : Fin 4, n[r][c] = m[r][(c.val + r.val) % 4]'(by omega)) ∧
      ∀ i : Fin 16, (fromState n)[i] = (fromState m)[(i.val + 4 * (i.val % 4)) % 16]'(by omega)) ∧
    (∃ n : StateMatrix, exec (.addRoundKeyF m k) s = .next { s with funit := .matrix n } ∧
      ∀ r c : Fin 4, n[r][c] = m[r][c] ^^^ k[r][c])

/-- R122, R123: MIXCOL1 is the matrix [[2,3,1,1],[1,2,3,1],[1,1,2,3],[3,1,1,2]] times the column, MIXCOLUMNS_F does so to each
column; a column of four equal bytes is unchanged. -/
def Obligations.MixColumnIsMatrixTimesColumn : Prop :=
  ∀ s : State,
    (∀ a0 a1 a2 a3 : Byte, exec (.mixCol1 #v[a0, a1, a2, a3]) s = .next { s with funit := .word #v[
      gfMul 2 a0 ^^^ gfMul 3 a1 ^^^ gfMul 1 a2 ^^^ gfMul 1 a3,
      gfMul 1 a0 ^^^ gfMul 2 a1 ^^^ gfMul 3 a2 ^^^ gfMul 1 a3,
      gfMul 1 a0 ^^^ gfMul 1 a1 ^^^ gfMul 2 a2 ^^^ gfMul 3 a3,
      gfMul 3 a0 ^^^ gfMul 1 a1 ^^^ gfMul 1 a2 ^^^ gfMul 2 a3] }) ∧
    (∀ v : Byte, exec (.mixCol1 #v[v, v, v, v]) s = .next { s with funit := .word #v[v, v, v, v] }) ∧
    ∀ m : StateMatrix, ∃ n : StateMatrix, exec (.mixColumnsF m) s = .next { s with funit := .matrix n } ∧
      ∀ r c : Fin 4, n[r][c] = (mixCol1 #v[m[0][c], m[1][c], m[2][c], m[3][c]])[r]

/-- R129, R140, R141: ROUND_F is the four primitives in their order; ENCRYPTBLOCK is one key-only round, nine full rounds and one round without MixColumns, on the column-major block;
and the known answer of AESDOC §8. -/
def Obligations.EncryptBlockRoundStructure : Prop :=
  (∀ (s : State) (m k : StateMatrix),
    exec (.roundF m k) s =
      .next { s with funit := .matrix (addRoundKeyF (mixColumnsF (shiftRowsF (subBytesF m))) k) }) ∧
  (∀ (s : State) (p k : Block) (m : Nat → StateMatrix),
    m 0 = addRoundKeyF (toState p) (rkSel (expand k) 0) →
    (∀ r : Nat, 1 ≤ r → r ≤ 9 → m r = roundF (m (r - 1)) (rkSel (expand k) r)) →
    exec (.encryptBlock p k) s = .next { s with
      funit := .block (fromState (addRoundKeyF (shiftRowsF (subBytesF (m 9))) (rkSel (expand k) 10))) }) ∧
  encryptBlock (Vector.replicate 16 0x00) (Vector.replicate 16 0x00) =
    #v[0x66, 0xE9, 0x4B, 0xD4, 0xEF, 0x8A, 0x2C, 0x3B, 0x88, 0x4C, 0xFA, 0x59, 0xCA, 0x34, 0x2B, 0x2E]

/-- R132: SUBBYTES_F and SHIFTROWS_F commute, MIXCOLUMNS_F and ADDROUNDKEY_F are linear, the four are bijections, and so is the
cipher under a fixed key. -/
def Obligations.CipherIsABijection : Prop :=
  (∀ m : StateMatrix, subBytesF (shiftRowsF m) = shiftRowsF (subBytesF m)) ∧
  (∀ m n : StateMatrix, mixColumnsF (xorMatrix m n) = xorMatrix (mixColumnsF m) (mixColumnsF n)) ∧
  (∀ m n k l : StateMatrix,
    addRoundKeyF (xorMatrix m n) (xorMatrix k l) = xorMatrix (addRoundKeyF m k) (addRoundKeyF n l)) ∧
  Function.Bijective subBytesF ∧ Function.Bijective shiftRowsF ∧ Function.Bijective mixColumnsF ∧
  (∀ k : StateMatrix, Function.Bijective fun m => addRoundKeyF m k) ∧
  ∀ k : Block, Function.Bijective fun p => encryptBlock p k

/-- R131: the lanes. What SUBBYTES and ADDROUNDKEY k put in one entry depends on that entry (and the key's) only, what MIXCOLUMNS puts
in one column on that column only, and SHIFTROWS moves each byte along its row. -/
def Obligations.LaneStructure : Prop :=
  ∀ s t s' t' : State,
    (∀ r c : Fin 4, s.st[r][c] = t.st[r][c] →
      exec .subBytes s = .next s' → exec .subBytes t = .next t' → s'.st[r][c] = t'.st[r][c]) ∧
    (∀ (k : Nat) (hk : k ≤ 10) (r c : Fin 4), s.st[r][c] = t.st[r][c] →
      s.xk[16 * k + r.val + 4 * c.val]'(by omega) = t.xk[16 * k + r.val + 4 * c.val]'(by omega) →
      exec (decode (BitVec.ofNat 8 (0x30 + k))) s = .next s' → exec (decode (BitVec.ofNat 8 (0x30 + k))) t = .next t' →
      s'.st[r][c] = t'.st[r][c]) ∧
    (∀ c : Fin 4, (∀ r : Fin 4, s.st[r][c] = t.st[r][c]) →
      exec .mixColumns s = .next s' → exec .mixColumns t = .next t' → ∀ r : Fin 4, s'.st[r][c] = t'.st[r][c]) ∧
    (exec .shiftRows s = .next s' → ∀ r : Fin 4, s'.st[r].toList.Perm s.st[r].toList)

/-! ## Class E: the framer (44_block_framer.md) -/

/-- R162, with R164, R165, R166: RXBYTE stores the byte, and the sixteenth completes the block in the same step: while
AWAITING_KEY the block becomes the key, while ENCRYPTING the micro-program starts. -/
def Obligations.RxByteTakesOneByte : Prop :=
  ∀ (b : Byte) (s : State), s.ph = .recv →
    (s.fst = .awaitingKey ∨ s.fst = .encrypting → s.cnt.toNat ≤ 14 →
      ∃ t : State, exec (.rxByte b) s = .next t ∧ t.cnt.toNat = s.cnt.toNat + 1 ∧
        (∀ i : Fin 16, t.ibuf[i] = if i.val = s.cnt.toNat then b else s.ibuf[i]) ∧
        t = { s with ibuf := t.ibuf, cnt := t.cnt, taken := s.taken ++ [b] }) ∧
    (s.fst = .awaitingKey → s.cnt = 15 → ∃ t : State, exec (.rxByte b) s = .next t ∧
      (∀ i : Fin 16, t.key[i] = if i.val = 15 then b else s.ibuf[i]) ∧
      t = { s with key := t.key, keyValid := true, fst := if s.eosSeen then .done else .encrypting, ibuf := zeroBlock,
                   cnt := 0, taken := s.taken ++ [b] }) ∧
    (s.fst = .encrypting → s.cnt = 15 → ∃ t : State, exec (.rxByte b) s = .next t ∧
      (∀ i : Fin 16, t.ibuf[i] = if i.val = 15 then b else s.ibuf[i]) ∧
      t = { s with ibuf := t.ibuf, cnt := 16, upc := 0, ph := .exec, taken := s.taken ++ [b] })

/-- R163, R170 to R172: the end of the stream. With nothing pending it is the normal exit; inside a plaintext block it starts the
micro-program on the zero-filled block; inside the key block the key is loaded and the engine is DONE. -/
def Obligations.EndOfStream : Prop :=
  ∀ s : State, s.ph = .recv →
    (s.fst = .awaitingKey ∨ s.fst = .encrypting → s.cnt = 0 → exec .rxEos s = .next { s with fst := .done }) ∧
    (s.fst = .encrypting → s.cnt ≠ 0 → exec .rxEos s = .next { s with eosSeen := true, upc := 0, ph := .exec }) ∧
    (s.fst = .awaitingKey → s.cnt ≠ 0 →
      exec .rxEos s = .next { s with
        eosSeen := true, key := s.ibuf, keyValid := true, fst := .done, ibuf := zeroBlock, cnt := 0 })

/-- R167: TXBYTE(ok) appends the byte on offer; the sixteenth ends the block. -/
def Obligations.TxByteOkAppendsTheByte : Prop :=
  ∀ s : State, s.fst = .encrypting → s.ph = .send →
    (∀ h : s.ocnt.toNat ≤ 14, exec .txByteOk s =
      .next { s with out := s.out ++ [s.obuf[s.ocnt.toNat]'(by omega)], ocnt := s.ocnt + 1 }) ∧
    (s.ocnt = 15 → s.eosSeen = true →
      exec .txByteOk s = .next { s with out := s.out ++ [s.obuf[15]], ocnt := 16, fst := .done }) ∧
    (s.ocnt = 15 → s.eosSeen = false →
      exec .txByteOk s = .next { s with
        out := s.out ++ [s.obuf[15]], ocnt := 16, ibuf := Vector.replicate 16 0x00, cnt := 0, ph := .recv })

/-- R168, R190, R193: TXBYTE(fail) takes the exception: `status` 0x01, `fst` FAULT, nothing else changed; so does raising it. -/
def Obligations.OutputWriteFailureEntry : Prop :=
  (∀ s : State, s.fst = .encrypting → s.ph = .send →
    exec .txByteFail s = .next { s with status := 0x01, fst := .fault }) ∧
  ∀ (n : BitVec 5) (s : State), exec (.raiseOutputWriteFailure n) s = .next { s with status := 0x01, fst := .fault }

/-- R160, R164 to R166, R150: the procedures driven directly, in the contexts their rules name. (That RECVINIT runs in every state and
ENDPROGRAM in every `fst` and `ph` is the model's reading, log entry 10.) -/
def Obligations.FramerProcedures : Prop :=
  ∀ s : State,
    exec .recvInit s = .next { s with ibuf := Vector.replicate 16 0x00, cnt := 0, ph := .recv } ∧
    (s.fst = .awaitingKey →
      exec .loadKey s = .next { s with
        key := s.ibuf, keyValid := true, fst := if s.eosSeen then .done else .encrypting,
        ibuf := Vector.replicate 16 0x00, cnt := 0, ph := .recv } ∧
      exec .blockComplete s = exec .loadKey s) ∧
    (s.fst = .encrypting →
      exec .startBlk s = .next { s with upc := 0, ph := .exec } ∧ exec .blockComplete s = exec .startBlk s) ∧
    (s.upc = 43 → exec .endProgram s = .next { s with ph := .send, ocnt := 0 })

/-- What this model does with an operand or a context that no rule of the spec gives an effect for, or that the engine never
asks for: the refusals and stops, and the fillers of R81 and R83 that are read. (The model's own: log entries 10 and 13.) -/
def Obligations.OperandsAndContextsOutsideTheRules : Prop :=
  ∀ s : State,
    (∀ r : Nat, r = 0 ∨ 10 ≤ r → exec (.round r) s = .refused .roundNumber) ∧
    (∀ i : Nat, 10 < i → exec (.rconlk i) s = .refused .roundConstantIndex) ∧
    exec (.rconlk 0) s = .next { s with funit := .byte 0x8D } ∧
    exec (.aloglk 0xFF) s = .next { s with funit := .byte 0x01 } ∧
    (∀ (w : Word) (i : Nat), 10 < i → exec (.ksCore w i) s = .refused .roundConstantIndex) ∧
    (∀ w0 w1 w2 w3 : Byte, exec (.ksCore #v[w0, w1, w2, w3] 0) s =
      .next { s with funit := .word #v[sboxLookup w1 ^^^ 0x8D, sboxLookup w2, sboxLookup w3, sboxLookup w0] }) ∧
    (∀ (xk : ExpandedKey) (n : Nat), n < 4 ∨ 43 < n → exec (.kexpWord xk n) s = .refused .scheduleWordIndex) ∧
    (s.fst ≠ .awaitingKey → exec .loadKey s = .fault .outOfContext) ∧
    (s.fst ≠ .encrypting → exec .startBlk s = .fault .outOfContext) ∧
    (s.fst = .done ∨ s.fst = .fault → exec .blockComplete s = .fault .outOfContext) ∧
    (s.upc ≠ 43 → exec .endProgram s = .fault .outOfContext)

/-- R149: in phase EXEC, with the key valid, USTEP always completes: it advances `upc` by one and stays in
EXEC, or at address 42 makes `upc` 43, `ph` SEND and `ocnt` 0. -/
def Obligations.UstepAlwaysCompletes : Prop :=
  ∀ s : State, s.fst = .encrypting → s.ph = .exec → s.upc.toNat ≤ 42 → s.keyValid = true →
    ∃ t : State, exec .ustep s = .next t ∧ t.upc.toNat = s.upc.toNat + 1 ∧
      (s.upc.toNat ≤ 41 → t = { s with xk := t.xk, st := t.st, upc := t.upc }) ∧
      (s.upc.toNat = 42 → t = { s with obuf := fromState s.st, upc := 43, ph := .send, ocnt := 0 })

/-- On an edge on which its handshake is closed an event leaves no trace: R31, R32, R192 and R195 say so of the pins, R149 says when
USTEP is enabled. (That exec of an event that is not enabled answers the same state is the model's reading, log entry 9.) -/
def Obligations.ClosedHandshakesLeaveNoTrace : Prop :=
  ∀ (s : State) (b : Byte),
    (s.ph ≠ .recv ∨ s.fst = .done ∨ s.fst = .fault → exec (.rxByte b) s = .next s ∧ exec .rxEos s = .next s) ∧
    (s.ph ≠ .send ∨ s.fst ≠ .encrypting → exec .txByteOk s = .next s ∧ exec .txByteFail s = .next s) ∧
    (s.ph ≠ .exec ∨ s.fst ≠ .encrypting → exec .ustep s = .next s)

/-! ## Reset, pins, status -/

/-- R220: RESET, whatever the state: the control state, `status` and IBUF take their reset values; what KEY, XK, ST and OBUF hold is
not said; the streams are unaffected (R221, R222), and so are the model's own fields `edge` and `funit` (log entry 23). `rst` on an
edge overrides every other pin. -/
def Obligations.ResetOverridesEverything : Prop :=
  ∀ s : State,
    (∃ t : State, exec .reset s = .next t ∧
      t.fst = .awaitingKey ∧ t.ph = .recv ∧ t.cnt = 0 ∧ t.eosSeen = false ∧ t.keyValid = false ∧
      t.status = 0x00 ∧ t.upc = 0 ∧ t.ocnt = 0 ∧ (∀ i : Fin 16, t.ibuf[i] = 0x00) ∧
      t.taken = s.taken ∧ t.out = s.out ∧ t.edge = s.edge ∧ t.funit = s.funit) ∧
    ∀ p : Pins, p.rst = true → onEdge p s = exec .reset s

/-- R220: `State.reset` has the values the spec gives for reset. -/
def Obligations.ResetStateHasTheSpecValues : Prop :=
  let s := State.reset
  s.fst = .awaitingKey ∧ s.ph = .recv ∧ s.cnt = 0 ∧ s.eosSeen = false ∧ s.keyValid = false ∧ s.status = 0x00 ∧
  s.upc = 0 ∧ s.ocnt = 0 ∧ (∀ i : Fin 16, s.ibuf[i] = 0x00) ∧ s.taken = [] ∧ s.out = [] ∧ s.statusWord = 0x000

/-- R31, R32, R51: the handshake pins, `out_data`, and that the two handshakes are never open on one edge. R11, R26, R33: the
status word. -/
def Obligations.HandshakePinsAndStatusWord : Prop :=
  ∀ (p : Pins) (s : State),
    (inReady p s = true ↔ p.rst = false ∧ (s.fst = .awaitingKey ∨ s.fst = .encrypting) ∧ s.ph = .recv) ∧
    (outValid p s = true ↔ p.rst = false ∧ s.fst = .encrypting ∧ s.ph = .send) ∧
    ¬ (inReady p s = true ∧ outValid p s = true) ∧
    (∀ h : s.ocnt.toNat ≤ 15, outValid p s = true → outData p s = some (s.obuf[s.ocnt.toNat]'(by omega))) ∧
    s.statusWord.extractLsb' 0 8 = s.status ∧
    (s.fst = .awaitingKey → s.statusWord.extractLsb' 8 2 = 0) ∧
    (s.fst = .encrypting → s.statusWord.extractLsb' 8 2 = 1) ∧
    (s.fst = .done → s.statusWord.extractLsb' 8 2 = 2) ∧
    (s.fst = .fault → s.statusWord.extractLsb' 8 2 = 3)

/-! ## Whole-machine rules -/

/-- R169, R196: in DONE and in FAULT no event is enabled: without reset an edge changes nothing, whatever the pins. -/
def Obligations.TerminalStatesAreAbsorbing : Prop :=
  ∀ s : State, s.fst = .done ∨ s.fst = .fault →
    ∀ p : Pins, inReady p s = false ∧ outValid p s = false ∧ (p.rst = false → onEdge p s = .next s)

/-- R176, R242, R17: KEY is written once, by the edge that leaves AWAITING_KEY with the block taken; after that no edge but reset
changes it. R14, R15: no edge but reset, and no instruction but RESET, clears `eos_seen` or `key_valid`; `eos_seen` is set by RXEOS
inside a block only. -/
def Obligations.KeyIsWrittenOnce : Prop :=
  (∀ (p : Pins) (s t : State), p.rst = false → onEdge p s = .next t →
    (s.fst ≠ .awaitingKey → t.key = s.key ∧ t.keyValid = s.keyValid ∧ t.fst ≠ .awaitingKey) ∧
    (t.key ≠ s.key ∨ t.keyValid ≠ s.keyValid → s.fst = .awaitingKey) ∧
    (s.fst = .awaitingKey → t.fst = .awaitingKey → t.key = s.key ∧ t.keyValid = s.keyValid) ∧
    (s.fst = .awaitingKey → t.fst = .encrypting →
      t.keyValid = true ∧ ∀ i : Fin 16, t.key[i] = if i.val = s.cnt.toNat then p.inData else s.ibuf[i]) ∧
    (s.eosSeen = true → t.eosSeen = true) ∧ (s.keyValid = true → t.keyValid = true)) ∧
  ∀ (i : Instr) (s t : State), i ≠ .reset → exec i s = .next t →
    (s.eosSeen = true → t.eosSeen = true) ∧ (s.keyValid = true → t.keyValid = true) ∧
    (t.eosSeen ≠ s.eosSeen → i = .rxEos ∧ s.cnt ≠ 0) ∧
    (t.key ≠ s.key → s.fst = .awaitingKey ∧ t.fst ≠ .awaitingKey ∧ t.keyValid = true)

/-- R24, R193: `status` is written by reset and by the exception only. -/
def Obligations.StatusIsWrittenByTheExceptionOnly : Prop :=
  ∀ (p : Pins) (s t : State), onEdge p s = .next t → t.status ≠ s.status →
    (p.rst = true ∧ t.status = 0x00 ∧ t.fst = .awaitingKey) ∨
    (p.rst = false ∧ s.fst = .encrypting ∧ s.ph = .send ∧ p.outErr = true ∧ t.status = 0x01 ∧ t.fst = .fault)

/-- R161: the transitions of `fst` and `ph` that an edge makes when no reset is asserted, from a state that meets R29, each with the
cause that the table gives it (R170 to R172 for the end of the stream). -/
def Obligations.FramerTransitions : Prop :=
  ∀ (p : Pins) (s t : State), Invariants s → p.rst = false → onEdge p s = .next t →
    (t.fst = s.fst ∧ t.ph = s.ph) ∨
    (s.fst = .awaitingKey ∧ s.ph = .recv ∧ s.cnt = 15 ∧ p.inValid = true ∧ t.fst = .encrypting ∧ t.ph = .recv) ∨
    (s.fst = .encrypting ∧ s.ph = .recv ∧
      ((s.cnt = 15 ∧ p.inValid = true) ∨
        (s.cnt ≠ 0 ∧ p.inValid = false ∧ p.inEos = true ∧ t.eosSeen = true)) ∧
      t.fst = .encrypting ∧ t.ph = .exec ∧ t.upc = 0) ∨
    (s.fst = .encrypting ∧ s.ph = .exec ∧ s.upc = 42 ∧ t.fst = .encrypting ∧ t.ph = .send ∧ t.upc = 43 ∧ t.ocnt = 0) ∨
    (s.fst = .encrypting ∧ s.ph = .send ∧ s.ocnt = 15 ∧ p.outReady = true ∧ p.outErr = false ∧
      s.eosSeen = false ∧ t.fst = .encrypting ∧ t.ph = .recv) ∨
    (s.fst = .encrypting ∧ s.ph = .send ∧ s.ocnt = 15 ∧ p.outReady = true ∧ p.outErr = false ∧
      s.eosSeen = true ∧ t.fst = .done ∧ t.ph = .send) ∨
    ((s.fst = .awaitingKey ∨ (s.fst = .encrypting ∧ s.cnt = 0)) ∧ s.ph = .recv ∧ p.inValid = false ∧
      p.inEos = true ∧ t.fst = .done ∧ t.ph = .recv) ∨
    (s.fst = .encrypting ∧ s.ph = .send ∧ p.outErr = true ∧ t.fst = .fault ∧ t.ph = .send)

/-- R47, R51, R174: an edge takes at most one byte, in phase RECV only, and appends at most one byte, in phase SEND only; what was
taken and what was written stays. -/
def Obligations.StreamsOnlyGrow : Prop :=
  ∀ (p : Pins) (s t : State), onEdge p s = .next t →
    (t.taken = s.taken ∨
      (t.taken = s.taken ++ [p.inData] ∧ p.inValid = true ∧ s.ph = .recv ∧ t.out = s.out)) ∧
    (t.out = s.out ∨
      (s.fst = .encrypting ∧ s.ph = .send ∧ p.outReady = true ∧ p.outErr = false ∧
        some t.out = (s.obuf[s.ocnt.toNat]?).map (fun b => s.out ++ [b])))

/-- R27, R40, R48, R55: whatever the instruction, every space but XK reads as before, and XK is changed by KEXPAND, by ENCRYPT and USTEP
through it, which write the expansion of KEY, and by RESET only. -/
def Obligations.OnlyKexpandWritesAnAddressSpace : Prop :=
  ∀ (i : Instr) (s t : State), exec i s = .next t →
    (∀ (sp : Space) (a : Nat), sp ≠ .xk → memRead t sp a = memRead s sp a) ∧
    (t.xk ≠ s.xk → i = .kexpand ∨ i = .encrypt ∨ i = .ustep ∨ i = .reset) ∧
    (i ≠ .reset → t.xk ≠ s.xk → s.keyValid = true ∧ t.xk = expand s.key)

/-- R8 item 2, R34: the bytes that the environment will offer are no state. An edge answers by its own pins and the engine's state,
whatever its number, and so does every instruction; none but RESET draws a free byte. A step moves on to the next edge, and `k` steps are
the edges numbered from `edge` on, one after the other, on the samples that the environment has put on them: what is stated of every list
of pins is stated of every run. (The number of the edge is the model's own, log entries 1 and 2; the free bytes are log entry 4.) -/
def Obligations.NoStepReadsAFutureEdge : Prop :=
  (∀ (p : Pins) (s : State) (n : Nat),
    onEdge p { s with edge := n } =
      match onEdge p s with
      | .next t => .next { t with edge := n }
      | .fault f => .fault f
      | .refused r => .refused r) ∧
  (∀ (i : Instr) (s : State) (n : Nat),
    exec i { s with edge := n } =
      match exec i s with
      | .next t => .next { t with edge := n }
      | .fault f => .fault f
      | .refused r => .refused r) ∧
  (∀ (i : Instr) (s t : State), exec i s = .next t → t.edge = s.edge ∧ (i ≠ .reset → t.freeCtr = s.freeCtr)) ∧
  (∀ s t : State, step s = .next t → t.edge = s.edge + 1) ∧
  ∀ (k : Nat) (s : State),
    core.run k s =
      match onEdges ((List.range k).map fun j => pinsAt (s.edge + j)) s with
      | .next t => .next { t with edge := s.edge + k }
      | .fault f => .fault f
      | .refused r => .refused r

/-- R40, R41: the ranges of the addressed spaces, and `MemWrite` of XK: each byte reads back, and every other space reads as before.
(That an address outside a space reads as none is the model's own, log entry 18.) -/
def Obligations.AddressSpacesHaveTheirRanges : Prop :=
  ∀ (s : State) (a : Nat),
    ((memRead s .sbox a).isSome = true ↔ a ≤ 255) ∧ ((memRead s .rcon a).isSome = true ↔ a ≤ 10) ∧
    ((memRead s .log a).isSome = true ↔ a ≤ 255) ∧ ((memRead s .alog a).isSome = true ↔ a ≤ 255) ∧
    ((memRead s .xk a).isSome = true ↔ a ≤ 175) ∧ ((memRead s .mprom a).isSome = true ↔ a ≤ 42) ∧
    ∀ v : ExpandedKey,
      (∀ h : a ≤ 175, memRead (s.writeXk v) .xk a = some (v[a]'(by omega))) ∧
      ∀ sp : Space, sp ≠ .xk → memRead (s.writeXk v) sp a = memRead s sp a

/-! ## Invariants -/

/-- The reset state meets the invariants R29. -/
def Obligations.ResetMeetsTheInvariants : Prop := Inv State.reset ∧ StreamInv State.reset

/-- R29: every step keeps the invariants, and so does every edge, reset included, whatever the pins. -/
def Obligations.StepKeepsTheInvariants : Prop :=
  (∀ s t : State, Inv s → step s = .next t → Inv t) ∧
  ∀ (p : Pins) (s t : State), Inv s → onEdge p s = .next t → Inv t

/-- R149, R191: from a state that meets the invariants neither a step nor an edge on any pins faults or is refused. -/
def Obligations.NoStepStops : Prop :=
  ∀ s : State, Inv s → (∃ t : State, step s = .next t) ∧ ∀ p : Pins, ∃ t : State, onEdge p s = .next t

/-- R175, as an invariant of every step and of every edge, reset included. With any pins but reset a step keeps the agreement of the
streams since the last reset with the whole-stream function: at DONE the output is that function of the input, at FAULT a proper prefix
of it. A reset starts a new stream (R222): what was taken and written before stays in front of it (log entry 17). `StreamSince [] []` is
`StreamInv`. -/
def Obligations.StepKeepsTheStreamFunction : Prop :=
  (∀ s t : State, StreamInv s → s.pins.rst = false → step s = .next t → StreamInv t) ∧
  (∀ (p : Pins) (s t : State), StreamInv s → p.rst = false → onEdge p s = .next t → StreamInv t) ∧
  (∀ (before beforeOut : List Byte) (s t : State), StreamSince before beforeOut s → step s = .next t →
    if s.pins.rst then StreamSince s.taken s.out t else StreamSince before beforeOut t) ∧
  ∀ (before beforeOut : List Byte) (p : Pins) (s t : State), StreamSince before beforeOut s → onEdge p s = .next t →
    if p.rst then StreamSince s.taken s.out t else StreamSince before beforeOut t

/-- R175, R233 for one block: from a block boundary in ENCRYPTING, sixteen edges that offer the bytes of a block, 43 edges with any
pins but reset, and sixteen edges that accept a byte, bring the engine back to the boundary with the sixteen bytes of the ciphertext
appended. -/
def Obligations.OneBlockIsEncrypted : Prop :=
  ∀ (s : State) (p : Block) (mid : List Pins),
    s.fst = .encrypting → s.ph = .recv → s.cnt = 0 → s.eosSeen = false → s.keyValid = true → s.ibuf = zeroBlock →
    mid.length = 43 → (∀ e ∈ mid, e.rst = false) →
    ∃ t : State,
      onEdges ((p.toList.map fun b => { Pins.idle with inValid := true, inData := b }) ++ mid ++
        List.replicate 16 { Pins.idle with outReady := true }) s = .next t ∧
      t.out = s.out ++ (encryptBlock p s.key).toList ∧ t.taken = s.taken ++ p.toList ∧ t.edge = s.edge ∧
      t.fst = .encrypting ∧ t.ph = .recv ∧ t.cnt = 0 ∧ t.eosSeen = false ∧ t.keyValid = true ∧ t.ibuf = zeroBlock ∧
      t.key = s.key ∧ t.status = s.status
end

