-- ==== Sys2Proof/Laws/Operands.lean ====
section
/-! SUPPORT. What the operand operations do, entry by entry (20_memory.md R42 to R45; 41_key_schedule.md R103 to R106). -/

namespace Sys2Proof.Machine

/-! ## Entries of a matrix -/

/-- The entries of `matrixOf`. -/
@[simp] theorem matrixOf_getElem (f : Fin 4 → Fin 4 → Byte) (r c : Nat) (hr : r < 4) (hc : c < 4) :
    ((matrixOf f)[r]'hr)[c]'hc = f ⟨r, hr⟩ ⟨c, hc⟩ := by
  simp [matrixOf]

/-- Two matrices with the same entries are equal. -/
theorem matrix_ext (m n : StateMatrix) (h : ∀ (r c : Nat) (hr : r < 4) (hc : c < 4), m[r][c] = n[r][c]) : m = n := by
  ext1 r hr
  ext1 c hc
  exact h r c hr hc

/-- The entry of a matrix made from a block (R44). -/
@[simp] theorem toState_getElem (b : Block) (r c : Nat) (hr : r < 4) (hc : c < 4) :
    ((toState b)[r]'hr)[c]'hc = b[r + 4 * c]'(by omega) := by
  simp [toState]

/-- The byte of a block made from a matrix (R45). -/
@[simp] theorem fromState_getElem (m : StateMatrix) (i : Nat) (hi : i < 16) :
    (fromState m)[i]'hi = (m[i % 4]'(by omega))[i / 4]'(by omega) := by
  simp [fromState]

@[simp] theorem fromState_toState (b : Block) : fromState (toState b) = b := by
  ext1 i hi
  simp only [fromState_getElem, toState_getElem]
  congr 1
  omega

@[simp] theorem toState_fromState (m : StateMatrix) : toState (fromState m) = m := by
  apply matrix_ext
  intro r c hr hc
  have h1 : (r + 4 * c) % 4 = r := by omega
  have h2 : (r + 4 * c) / 4 = c := by omega
  simp only [toState_getElem, fromState_getElem, h1, h2]

@[simp] theorem subBytesF_getElem (m : StateMatrix) (r c : Nat) (hr : r < 4) (hc : c < 4) :
    ((subBytesF m)[r]'hr)[c]'hc = sboxLookup m[r][c] := by
  simp [subBytesF]

@[simp] theorem shiftRowsF_getElem (m : StateMatrix) (r c : Nat) (hr : r < 4) (hc : c < 4) :
    ((shiftRowsF m)[r]'hr)[c]'hc = m[r][(c + r) % 4]'(by omega) := by
  simp [shiftRowsF]

@[simp] theorem mixColumnsF_getElem (m : StateMatrix) (r c : Nat) (hr : r < 4) (hc : c < 4) :
    ((mixColumnsF m)[r]'hr)[c]'hc = (mixCol1 #v[m[0][c], m[1][c], m[2][c], m[3][c]])[r] := by
  simp [mixColumnsF, column]

@[simp] theorem addRoundKeyF_getElem (m k : StateMatrix) (r c : Nat) (hr : r < 4) (hc : c < 4) :
    ((addRoundKeyF m k)[r]'hr)[c]'hc = m[r][c] ^^^ k[r][c] := by
  simp [addRoundKeyF]

/-! ## Bytes of an array -/

/-- Inside the array `byteAt` is the byte there. -/
theorem byteAt_of_lt {n : Nat} (v : Vector Byte n) (i : Nat) (h : i < n) : byteAt v i = v[i] := by
  simp [byteAt, h]

/-- The entry of a round key (R106). -/
theorem rkSel_getElem (xk : ExpandedKey) (r row col : Nat) (hr : r ≤ 10) (h1 : row < 4) (h2 : col < 4) :
    ((rkSel xk r)[row]'h1)[col]'h2 = xk[16 * r + row + 4 * col]'(by omega) := by
  simp only [rkSel, toState_getElem, Vector.getElem_ofFn]
  rw [byteAt_of_lt _ _ (by omega)]
  congr 1
  omega

/-- A byte of the schedule after a word of it was replaced (R42). -/
theorem byteAt_setScheduleWord (xk : ExpandedKey) (n i : Nat) (w : Word) (hn : n ≤ 43) :
    byteAt (setScheduleWord xk n w) i =
      if h : 4 * n ≤ i ∧ i < 4 * n + 4 then w[i - 4 * n]'(by omega) else byteAt xk i := by
  unfold byteAt setScheduleWord
  simp only [Vector.getElem?_setIfInBounds]
  rcases Nat.lt_or_ge i (4 * n) with h | h
  · have e : ¬ (4 * n ≤ i ∧ i < 4 * n + 4) := by omega
    simp [e, show 4 * n + 3 ≠ i by omega, show 4 * n + 2 ≠ i by omega, show 4 * n + 1 ≠ i by omega,
      show 4 * n ≠ i by omega]
  · rcases Nat.lt_or_ge i (4 * n + 4) with h4 | h4
    · have e : (4 * n ≤ i ∧ i < 4 * n + 4) := ⟨h, h4⟩
      obtain h | h | h | h : i = 4 * n ∨ i = 4 * n + 1 ∨ i = 4 * n + 2 ∨ i = 4 * n + 3 := by omega
      · subst h; simp [show 4 * n < 176 by omega]
      · subst h; simp [show 4 * n + 1 < 176 by omega]
      · subst h; simp [show 4 * n + 2 < 176 by omega]
      · subst h; simp [show 4 * n + 3 < 176 by omega]
    · have e : ¬ (4 * n ≤ i ∧ i < 4 * n + 4) := by omega
      simp [e, show 4 * n + 3 ≠ i by omega, show 4 * n + 2 ≠ i by omega, show 4 * n + 1 ≠ i by omega,
        show 4 * n ≠ i by omega]

/-- A word just put in the schedule reads back. -/
theorem scheduleWord_setScheduleWord_same (xk : ExpandedKey) (n : Nat) (w : Word) (hn : n ≤ 43) :
    scheduleWord (setScheduleWord xk n w) n = w := by
  ext1 j hj
  obtain h | h | h | h : j = 0 ∨ j = 1 ∨ j = 2 ∨ j = 3 := by omega
  all_goals subst h; simp [scheduleWord, byteAt_setScheduleWord _ _ _ _ hn]

/-- Another word of the schedule is unchanged. -/
theorem scheduleWord_setScheduleWord_other (xk : ExpandedKey) (n k : Nat) (w : Word) (hn : n ≤ 43) (h : k ≠ n) :
    scheduleWord (setScheduleWord xk n w) k = scheduleWord xk k := by
  have e : ∀ j, j < 4 → ¬ (4 * n ≤ 4 * k + j ∧ 4 * k + j < 4 * n + 4) := by omega
  have e0 := e 0 (by omega)
  rw [Nat.add_zero] at e0
  simp only [scheduleWord, byteAt_setScheduleWord _ _ _ _ hn, dif_neg e0, dif_neg (e 1 (by omega)), dif_neg (e 2 (by omega)),
    dif_neg (e 3 (by omega))]

/-- KEXPWORD reads the words n - 1 and n - 4 only (R103). -/
theorem kexpWord_congr (xk xk' : ExpandedKey) (n : Nat) (h1 : scheduleWord xk (n - 1) = scheduleWord xk' (n - 1))
    (h4 : scheduleWord xk (n - 4) = scheduleWord xk' (n - 4)) : kexpWord xk n = kexpWord xk' n := by
  simp only [kexpWord, h1, h4]

end Sys2Proof.Machine
end

