-- ==== Sys2Proof/Laws/KeySchedule.lean ====
section
/-! SUPPORT. How the schedule grows (41_key_schedule.md R104): each made word is KEXPWORD of what stood before it, and what stands
stays. -/

namespace Sys2Proof.Machine

/-- One more word. -/
theorem expandWords_succ (key : Block) (k : Nat) :
    expandWords key (k + 1) = setScheduleWord (expandWords key k) (k + 4) (kexpWord (expandWords key k) (k + 4)) := rfl

/-- The first sixteen bytes are the key, whatever words were made. -/
theorem byteAt_expandWords_key (key : Block) (k : Nat) (hk : k ≤ 40) (i : Nat) (hi : i < 16) :
    byteAt (expandWords key k) i = key[i] := by
  induction k with
  | zero =>
    rw [expandWords, byteAt_of_lt _ _ (by omega), Vector.getElem_ofFn, byteAt_of_lt _ _ hi]
  | succ k ih =>
    rw [expandWords_succ, byteAt_setScheduleWord _ _ _ _ (by omega), dif_neg (by omega), ih (by omega)]

/-- A word made, or the key's own, stays. -/
theorem scheduleWord_expandWords_add (key : Block) (k j n : Nat) (h : k + j ≤ 40) (hn : n < k + 4) :
    scheduleWord (expandWords key (k + j)) n = scheduleWord (expandWords key k) n := by
  induction j with
  | zero => rfl
  | succ j ih =>
    rw [← Nat.add_assoc, expandWords_succ, scheduleWord_setScheduleWord_other _ _ _ _ (by omega) (by omega), ih (by omega)]

/-- A word of the finished schedule, in terms of the schedule when it was made. -/
theorem scheduleWord_expand (key : Block) (n : Nat) (h4 : 4 ≤ n) (h : n ≤ 43) :
    scheduleWord (expand key) n = kexpWord (expandWords key (n - 4)) n := by
  obtain ⟨k, rfl⟩ : ∃ k, n = k + 4 := ⟨n - 4, by omega⟩
  have e : expand key = expandWords key ((k + 1) + (39 - k)) := by
    rw [show (k + 1) + (39 - k) = 40 by omega, expand]
  rw [e, scheduleWord_expandWords_add _ _ _ _ (by omega) (by omega), expandWords_succ,
    scheduleWord_setScheduleWord_same _ _ _ (by omega), Nat.add_sub_cancel]

end Sys2Proof.Machine
end

