-- ==== Sys2Proof/Laws/State.lean ====
section
/-! SUPPORT. For each update of the state, what it makes of each field. -/

namespace Sys2Proof.Machine

variable (s : State)

/-! ## writeXk -/

@[simp] theorem State.writeXk_fst (v : ExpandedKey) : (s.writeXk v).fst = s.fst := rfl
@[simp] theorem State.writeXk_ph (v : ExpandedKey) : (s.writeXk v).ph = s.ph := rfl
@[simp] theorem State.writeXk_cnt (v : ExpandedKey) : (s.writeXk v).cnt = s.cnt := rfl
@[simp] theorem State.writeXk_eosSeen (v : ExpandedKey) : (s.writeXk v).eosSeen = s.eosSeen := rfl
@[simp] theorem State.writeXk_keyValid (v : ExpandedKey) : (s.writeXk v).keyValid = s.keyValid := rfl
@[simp] theorem State.writeXk_ibuf (v : ExpandedKey) : (s.writeXk v).ibuf = s.ibuf := rfl
@[simp] theorem State.writeXk_key (v : ExpandedKey) : (s.writeXk v).key = s.key := rfl
@[simp] theorem State.writeXk_xk (v : ExpandedKey) : (s.writeXk v).xk = v := rfl
@[simp] theorem State.writeXk_st (v : ExpandedKey) : (s.writeXk v).st = s.st := rfl
@[simp] theorem State.writeXk_obuf (v : ExpandedKey) : (s.writeXk v).obuf = s.obuf := rfl
@[simp] theorem State.writeXk_upc (v : ExpandedKey) : (s.writeXk v).upc = s.upc := rfl
@[simp] theorem State.writeXk_ocnt (v : ExpandedKey) : (s.writeXk v).ocnt = s.ocnt := rfl
@[simp] theorem State.writeXk_status (v : ExpandedKey) : (s.writeXk v).status = s.status := rfl
@[simp] theorem State.writeXk_taken (v : ExpandedKey) : (s.writeXk v).taken = s.taken := rfl
@[simp] theorem State.writeXk_out (v : ExpandedKey) : (s.writeXk v).out = s.out := rfl
@[simp] theorem State.writeXk_edge (v : ExpandedKey) : (s.writeXk v).edge = s.edge := rfl
@[simp] theorem State.writeXk_funit (v : ExpandedKey) : (s.writeXk v).funit = s.funit := rfl
@[simp] theorem State.writeXk_freeCtr (v : ExpandedKey) : (s.writeXk v).freeCtr = s.freeCtr := rfl

/-! ## advance -/

@[simp] theorem State.advance_fst : (s.advance).fst = s.fst := rfl
@[simp] theorem State.advance_ph : (s.advance).ph = s.ph := rfl
@[simp] theorem State.advance_cnt : (s.advance).cnt = s.cnt := rfl
@[simp] theorem State.advance_eosSeen : (s.advance).eosSeen = s.eosSeen := rfl
@[simp] theorem State.advance_keyValid : (s.advance).keyValid = s.keyValid := rfl
@[simp] theorem State.advance_ibuf : (s.advance).ibuf = s.ibuf := rfl
@[simp] theorem State.advance_key : (s.advance).key = s.key := rfl
@[simp] theorem State.advance_xk : (s.advance).xk = s.xk := rfl
@[simp] theorem State.advance_st : (s.advance).st = s.st := rfl
@[simp] theorem State.advance_obuf : (s.advance).obuf = s.obuf := rfl
@[simp] theorem State.advance_upc : (s.advance).upc = s.upc + 1 := rfl
@[simp] theorem State.advance_ocnt : (s.advance).ocnt = s.ocnt := rfl
@[simp] theorem State.advance_status : (s.advance).status = s.status := rfl
@[simp] theorem State.advance_taken : (s.advance).taken = s.taken := rfl
@[simp] theorem State.advance_out : (s.advance).out = s.out := rfl
@[simp] theorem State.advance_edge : (s.advance).edge = s.edge := rfl
@[simp] theorem State.advance_funit : (s.advance).funit = s.funit := rfl
@[simp] theorem State.advance_freeCtr : (s.advance).freeCtr = s.freeCtr := rfl

/-! ## stepMatrix -/

@[simp] theorem State.stepMatrix_fst (m : StateMatrix) : (s.stepMatrix m).fst = s.fst := rfl
@[simp] theorem State.stepMatrix_ph (m : StateMatrix) : (s.stepMatrix m).ph = s.ph := rfl
@[simp] theorem State.stepMatrix_cnt (m : StateMatrix) : (s.stepMatrix m).cnt = s.cnt := rfl
@[simp] theorem State.stepMatrix_eosSeen (m : StateMatrix) : (s.stepMatrix m).eosSeen = s.eosSeen := rfl
@[simp] theorem State.stepMatrix_keyValid (m : StateMatrix) : (s.stepMatrix m).keyValid = s.keyValid := rfl
@[simp] theorem State.stepMatrix_ibuf (m : StateMatrix) : (s.stepMatrix m).ibuf = s.ibuf := rfl
@[simp] theorem State.stepMatrix_key (m : StateMatrix) : (s.stepMatrix m).key = s.key := rfl
@[simp] theorem State.stepMatrix_xk (m : StateMatrix) : (s.stepMatrix m).xk = s.xk := rfl
@[simp] theorem State.stepMatrix_st (m : StateMatrix) : (s.stepMatrix m).st = m := rfl
@[simp] theorem State.stepMatrix_obuf (m : StateMatrix) : (s.stepMatrix m).obuf = s.obuf := rfl
@[simp] theorem State.stepMatrix_upc (m : StateMatrix) : (s.stepMatrix m).upc = s.upc + 1 := rfl
@[simp] theorem State.stepMatrix_ocnt (m : StateMatrix) : (s.stepMatrix m).ocnt = s.ocnt := rfl
@[simp] theorem State.stepMatrix_status (m : StateMatrix) : (s.stepMatrix m).status = s.status := rfl
@[simp] theorem State.stepMatrix_taken (m : StateMatrix) : (s.stepMatrix m).taken = s.taken := rfl
@[simp] theorem State.stepMatrix_out (m : StateMatrix) : (s.stepMatrix m).out = s.out := rfl
@[simp] theorem State.stepMatrix_edge (m : StateMatrix) : (s.stepMatrix m).edge = s.edge := rfl
@[simp] theorem State.stepMatrix_funit (m : StateMatrix) : (s.stepMatrix m).funit = s.funit := rfl
@[simp] theorem State.stepMatrix_freeCtr (m : StateMatrix) : (s.stepMatrix m).freeCtr = s.freeCtr := rfl

/-! ## drive -/

@[simp] theorem State.drive_fst (v : UnitOutput) : (s.drive v).fst = s.fst := rfl
@[simp] theorem State.drive_ph (v : UnitOutput) : (s.drive v).ph = s.ph := rfl
@[simp] theorem State.drive_cnt (v : UnitOutput) : (s.drive v).cnt = s.cnt := rfl
@[simp] theorem State.drive_eosSeen (v : UnitOutput) : (s.drive v).eosSeen = s.eosSeen := rfl
@[simp] theorem State.drive_keyValid (v : UnitOutput) : (s.drive v).keyValid = s.keyValid := rfl
@[simp] theorem State.drive_ibuf (v : UnitOutput) : (s.drive v).ibuf = s.ibuf := rfl
@[simp] theorem State.drive_key (v : UnitOutput) : (s.drive v).key = s.key := rfl
@[simp] theorem State.drive_xk (v : UnitOutput) : (s.drive v).xk = s.xk := rfl
@[simp] theorem State.drive_st (v : UnitOutput) : (s.drive v).st = s.st := rfl
@[simp] theorem State.drive_obuf (v : UnitOutput) : (s.drive v).obuf = s.obuf := rfl
@[simp] theorem State.drive_upc (v : UnitOutput) : (s.drive v).upc = s.upc := rfl
@[simp] theorem State.drive_ocnt (v : UnitOutput) : (s.drive v).ocnt = s.ocnt := rfl
@[simp] theorem State.drive_status (v : UnitOutput) : (s.drive v).status = s.status := rfl
@[simp] theorem State.drive_taken (v : UnitOutput) : (s.drive v).taken = s.taken := rfl
@[simp] theorem State.drive_out (v : UnitOutput) : (s.drive v).out = s.out := rfl
@[simp] theorem State.drive_edge (v : UnitOutput) : (s.drive v).edge = s.edge := rfl
@[simp] theorem State.drive_funit (v : UnitOutput) : (s.drive v).funit = v := rfl
@[simp] theorem State.drive_freeCtr (v : UnitOutput) : (s.drive v).freeCtr = s.freeCtr := rfl

/-! ## recvInit -/

@[simp] theorem State.recvInit_fst : (s.recvInit).fst = s.fst := rfl
@[simp] theorem State.recvInit_ph : (s.recvInit).ph = .recv := rfl
@[simp] theorem State.recvInit_cnt : (s.recvInit).cnt = 0 := rfl
@[simp] theorem State.recvInit_eosSeen : (s.recvInit).eosSeen = s.eosSeen := rfl
@[simp] theorem State.recvInit_keyValid : (s.recvInit).keyValid = s.keyValid := rfl
@[simp] theorem State.recvInit_ibuf : (s.recvInit).ibuf = zeroBlock := rfl
@[simp] theorem State.recvInit_key : (s.recvInit).key = s.key := rfl
@[simp] theorem State.recvInit_xk : (s.recvInit).xk = s.xk := rfl
@[simp] theorem State.recvInit_st : (s.recvInit).st = s.st := rfl
@[simp] theorem State.recvInit_obuf : (s.recvInit).obuf = s.obuf := rfl
@[simp] theorem State.recvInit_upc : (s.recvInit).upc = s.upc := rfl
@[simp] theorem State.recvInit_ocnt : (s.recvInit).ocnt = s.ocnt := rfl
@[simp] theorem State.recvInit_status : (s.recvInit).status = s.status := rfl
@[simp] theorem State.recvInit_taken : (s.recvInit).taken = s.taken := rfl
@[simp] theorem State.recvInit_out : (s.recvInit).out = s.out := rfl
@[simp] theorem State.recvInit_edge : (s.recvInit).edge = s.edge := rfl
@[simp] theorem State.recvInit_funit : (s.recvInit).funit = s.funit := rfl
@[simp] theorem State.recvInit_freeCtr : (s.recvInit).freeCtr = s.freeCtr := rfl

/-! ## passEdge -/

@[simp] theorem State.passEdge_fst : (s.passEdge).fst = s.fst := rfl
@[simp] theorem State.passEdge_ph : (s.passEdge).ph = s.ph := rfl
@[simp] theorem State.passEdge_cnt : (s.passEdge).cnt = s.cnt := rfl
@[simp] theorem State.passEdge_eosSeen : (s.passEdge).eosSeen = s.eosSeen := rfl
@[simp] theorem State.passEdge_keyValid : (s.passEdge).keyValid = s.keyValid := rfl
@[simp] theorem State.passEdge_ibuf : (s.passEdge).ibuf = s.ibuf := rfl
@[simp] theorem State.passEdge_key : (s.passEdge).key = s.key := rfl
@[simp] theorem State.passEdge_xk : (s.passEdge).xk = s.xk := rfl
@[simp] theorem State.passEdge_st : (s.passEdge).st = s.st := rfl
@[simp] theorem State.passEdge_obuf : (s.passEdge).obuf = s.obuf := rfl
@[simp] theorem State.passEdge_upc : (s.passEdge).upc = s.upc := rfl
@[simp] theorem State.passEdge_ocnt : (s.passEdge).ocnt = s.ocnt := rfl
@[simp] theorem State.passEdge_status : (s.passEdge).status = s.status := rfl
@[simp] theorem State.passEdge_taken : (s.passEdge).taken = s.taken := rfl
@[simp] theorem State.passEdge_out : (s.passEdge).out = s.out := rfl
@[simp] theorem State.passEdge_edge : (s.passEdge).edge = s.edge + 1 := rfl
@[simp] theorem State.passEdge_funit : (s.passEdge).funit = s.funit := rfl
@[simp] theorem State.passEdge_freeCtr : (s.passEdge).freeCtr = s.freeCtr := rfl

/-! ## raiseOutputWriteFailure -/

@[simp] theorem State.raiseOutputWriteFailure_fst (n : BitVec 5) : (s.raiseOutputWriteFailure n).fst = .fault := rfl
@[simp] theorem State.raiseOutputWriteFailure_ph (n : BitVec 5) : (s.raiseOutputWriteFailure n).ph = s.ph := rfl
@[simp] theorem State.raiseOutputWriteFailure_cnt (n : BitVec 5) : (s.raiseOutputWriteFailure n).cnt = s.cnt := rfl
@[simp] theorem State.raiseOutputWriteFailure_eosSeen (n : BitVec 5) : (s.raiseOutputWriteFailure n).eosSeen = s.eosSeen := rfl
@[simp] theorem State.raiseOutputWriteFailure_keyValid (n : BitVec 5) : (s.raiseOutputWriteFailure n).keyValid = s.keyValid := rfl
@[simp] theorem State.raiseOutputWriteFailure_ibuf (n : BitVec 5) : (s.raiseOutputWriteFailure n).ibuf = s.ibuf := rfl
@[simp] theorem State.raiseOutputWriteFailure_key (n : BitVec 5) : (s.raiseOutputWriteFailure n).key = s.key := rfl
@[simp] theorem State.raiseOutputWriteFailure_xk (n : BitVec 5) : (s.raiseOutputWriteFailure n).xk = s.xk := rfl
@[simp] theorem State.raiseOutputWriteFailure_st (n : BitVec 5) : (s.raiseOutputWriteFailure n).st = s.st := rfl
@[simp] theorem State.raiseOutputWriteFailure_obuf (n : BitVec 5) : (s.raiseOutputWriteFailure n).obuf = s.obuf := rfl
@[simp] theorem State.raiseOutputWriteFailure_upc (n : BitVec 5) : (s.raiseOutputWriteFailure n).upc = s.upc := rfl
@[simp] theorem State.raiseOutputWriteFailure_ocnt (n : BitVec 5) : (s.raiseOutputWriteFailure n).ocnt = s.ocnt := rfl
@[simp] theorem State.raiseOutputWriteFailure_status (n : BitVec 5) : (s.raiseOutputWriteFailure n).status = 0x01 := rfl
@[simp] theorem State.raiseOutputWriteFailure_taken (n : BitVec 5) : (s.raiseOutputWriteFailure n).taken = s.taken := rfl
@[simp] theorem State.raiseOutputWriteFailure_out (n : BitVec 5) : (s.raiseOutputWriteFailure n).out = s.out := rfl
@[simp] theorem State.raiseOutputWriteFailure_edge (n : BitVec 5) : (s.raiseOutputWriteFailure n).edge = s.edge := rfl
@[simp] theorem State.raiseOutputWriteFailure_funit (n : BitVec 5) : (s.raiseOutputWriteFailure n).funit = s.funit := rfl
@[simp] theorem State.raiseOutputWriteFailure_freeCtr (n : BitVec 5) : (s.raiseOutputWriteFailure n).freeCtr = s.freeCtr := rfl

/-! ## takeReset -/

@[simp] theorem State.takeReset_fst : (s.takeReset).fst = .awaitingKey := rfl
@[simp] theorem State.takeReset_ph : (s.takeReset).ph = .recv := rfl
@[simp] theorem State.takeReset_cnt : (s.takeReset).cnt = 0 := rfl
@[simp] theorem State.takeReset_eosSeen : (s.takeReset).eosSeen = false := rfl
@[simp] theorem State.takeReset_keyValid : (s.takeReset).keyValid = false := rfl
@[simp] theorem State.takeReset_ibuf : (s.takeReset).ibuf = zeroBlock := rfl
@[simp] theorem State.takeReset_key : (s.takeReset).key = freeBlock s.freeCtr := rfl
@[simp] theorem State.takeReset_xk : (s.takeReset).xk = (Vector.ofFn fun i => Config.freeByte (s.freeCtr + 16 + i.val)) := rfl
@[simp] theorem State.takeReset_st : (s.takeReset).st = matrixOf fun r c => Config.freeByte (s.freeCtr + 192 + 4 * r.val + c.val) := rfl
@[simp] theorem State.takeReset_obuf : (s.takeReset).obuf = freeBlock (s.freeCtr + 208) := rfl
@[simp] theorem State.takeReset_upc : (s.takeReset).upc = 0 := rfl
@[simp] theorem State.takeReset_ocnt : (s.takeReset).ocnt = 0 := rfl
@[simp] theorem State.takeReset_status : (s.takeReset).status = 0x00 := rfl
@[simp] theorem State.takeReset_taken : (s.takeReset).taken = s.taken := rfl
@[simp] theorem State.takeReset_out : (s.takeReset).out = s.out := rfl
@[simp] theorem State.takeReset_edge : (s.takeReset).edge = s.edge := rfl
@[simp] theorem State.takeReset_funit : (s.takeReset).funit = s.funit := rfl
@[simp] theorem State.takeReset_freeCtr : (s.takeReset).freeCtr = s.freeCtr + 224 := rfl

/-! ## setEosSeen -/

@[simp] theorem State.setEosSeen_fst : (s.setEosSeen).fst = s.fst := rfl
@[simp] theorem State.setEosSeen_ph : (s.setEosSeen).ph = s.ph := rfl
@[simp] theorem State.setEosSeen_cnt : (s.setEosSeen).cnt = s.cnt := rfl
@[simp] theorem State.setEosSeen_eosSeen : (s.setEosSeen).eosSeen = true := rfl
@[simp] theorem State.setEosSeen_keyValid : (s.setEosSeen).keyValid = s.keyValid := rfl
@[simp] theorem State.setEosSeen_ibuf : (s.setEosSeen).ibuf = s.ibuf := rfl
@[simp] theorem State.setEosSeen_key : (s.setEosSeen).key = s.key := rfl
@[simp] theorem State.setEosSeen_xk : (s.setEosSeen).xk = s.xk := rfl
@[simp] theorem State.setEosSeen_st : (s.setEosSeen).st = s.st := rfl
@[simp] theorem State.setEosSeen_obuf : (s.setEosSeen).obuf = s.obuf := rfl
@[simp] theorem State.setEosSeen_upc : (s.setEosSeen).upc = s.upc := rfl
@[simp] theorem State.setEosSeen_ocnt : (s.setEosSeen).ocnt = s.ocnt := rfl
@[simp] theorem State.setEosSeen_status : (s.setEosSeen).status = s.status := rfl
@[simp] theorem State.setEosSeen_taken : (s.setEosSeen).taken = s.taken := rfl
@[simp] theorem State.setEosSeen_out : (s.setEosSeen).out = s.out := rfl
@[simp] theorem State.setEosSeen_edge : (s.setEosSeen).edge = s.edge := rfl
@[simp] theorem State.setEosSeen_funit : (s.setEosSeen).funit = s.funit := rfl
@[simp] theorem State.setEosSeen_freeCtr : (s.setEosSeen).freeCtr = s.freeCtr := rfl

/-! ## endProgram -/

@[simp] theorem State.endProgram_fst : (s.endProgram).fst = s.fst := rfl
@[simp] theorem State.endProgram_ph : (s.endProgram).ph = .send := rfl
@[simp] theorem State.endProgram_cnt : (s.endProgram).cnt = s.cnt := rfl
@[simp] theorem State.endProgram_eosSeen : (s.endProgram).eosSeen = s.eosSeen := rfl
@[simp] theorem State.endProgram_keyValid : (s.endProgram).keyValid = s.keyValid := rfl
@[simp] theorem State.endProgram_ibuf : (s.endProgram).ibuf = s.ibuf := rfl
@[simp] theorem State.endProgram_key : (s.endProgram).key = s.key := rfl
@[simp] theorem State.endProgram_xk : (s.endProgram).xk = s.xk := rfl
@[simp] theorem State.endProgram_st : (s.endProgram).st = s.st := rfl
@[simp] theorem State.endProgram_obuf : (s.endProgram).obuf = s.obuf := rfl
@[simp] theorem State.endProgram_upc : (s.endProgram).upc = s.upc := rfl
@[simp] theorem State.endProgram_ocnt : (s.endProgram).ocnt = 0 := rfl
@[simp] theorem State.endProgram_status : (s.endProgram).status = s.status := rfl
@[simp] theorem State.endProgram_taken : (s.endProgram).taken = s.taken := rfl
@[simp] theorem State.endProgram_out : (s.endProgram).out = s.out := rfl
@[simp] theorem State.endProgram_edge : (s.endProgram).edge = s.edge := rfl
@[simp] theorem State.endProgram_funit : (s.endProgram).funit = s.funit := rfl
@[simp] theorem State.endProgram_freeCtr : (s.endProgram).freeCtr = s.freeCtr := rfl

/-! ## loadKey -/

@[simp] theorem State.loadKey_fst : (s.loadKey).fst = if s.eosSeen then .done else .encrypting := rfl
@[simp] theorem State.loadKey_ph : (s.loadKey).ph = .recv := rfl
@[simp] theorem State.loadKey_cnt : (s.loadKey).cnt = 0 := rfl
@[simp] theorem State.loadKey_eosSeen : (s.loadKey).eosSeen = s.eosSeen := rfl
@[simp] theorem State.loadKey_keyValid : (s.loadKey).keyValid = true := rfl
@[simp] theorem State.loadKey_ibuf : (s.loadKey).ibuf = zeroBlock := rfl
@[simp] theorem State.loadKey_key : (s.loadKey).key = s.ibuf := rfl
@[simp] theorem State.loadKey_xk : (s.loadKey).xk = s.xk := rfl
@[simp] theorem State.loadKey_st : (s.loadKey).st = s.st := rfl
@[simp] theorem State.loadKey_obuf : (s.loadKey).obuf = s.obuf := rfl
@[simp] theorem State.loadKey_upc : (s.loadKey).upc = s.upc := rfl
@[simp] theorem State.loadKey_ocnt : (s.loadKey).ocnt = s.ocnt := rfl
@[simp] theorem State.loadKey_status : (s.loadKey).status = s.status := rfl
@[simp] theorem State.loadKey_taken : (s.loadKey).taken = s.taken := rfl
@[simp] theorem State.loadKey_out : (s.loadKey).out = s.out := rfl
@[simp] theorem State.loadKey_edge : (s.loadKey).edge = s.edge := rfl
@[simp] theorem State.loadKey_funit : (s.loadKey).funit = s.funit := rfl
@[simp] theorem State.loadKey_freeCtr : (s.loadKey).freeCtr = s.freeCtr := rfl

/-! ## startBlk -/

@[simp] theorem State.startBlk_fst : (s.startBlk).fst = s.fst := rfl
@[simp] theorem State.startBlk_ph : (s.startBlk).ph = .exec := rfl
@[simp] theorem State.startBlk_cnt : (s.startBlk).cnt = s.cnt := rfl
@[simp] theorem State.startBlk_eosSeen : (s.startBlk).eosSeen = s.eosSeen := rfl
@[simp] theorem State.startBlk_keyValid : (s.startBlk).keyValid = s.keyValid := rfl
@[simp] theorem State.startBlk_ibuf : (s.startBlk).ibuf = s.ibuf := rfl
@[simp] theorem State.startBlk_key : (s.startBlk).key = s.key := rfl
@[simp] theorem State.startBlk_xk : (s.startBlk).xk = s.xk := rfl
@[simp] theorem State.startBlk_st : (s.startBlk).st = s.st := rfl
@[simp] theorem State.startBlk_obuf : (s.startBlk).obuf = s.obuf := rfl
@[simp] theorem State.startBlk_upc : (s.startBlk).upc = 0 := rfl
@[simp] theorem State.startBlk_ocnt : (s.startBlk).ocnt = s.ocnt := rfl
@[simp] theorem State.startBlk_status : (s.startBlk).status = s.status := rfl
@[simp] theorem State.startBlk_taken : (s.startBlk).taken = s.taken := rfl
@[simp] theorem State.startBlk_out : (s.startBlk).out = s.out := rfl
@[simp] theorem State.startBlk_edge : (s.startBlk).edge = s.edge := rfl
@[simp] theorem State.startBlk_funit : (s.startBlk).funit = s.funit := rfl
@[simp] theorem State.startBlk_freeCtr : (s.startBlk).freeCtr = s.freeCtr := rfl

/-! ## takeByte -/

@[simp] theorem State.takeByte_fst (b : Byte) : (s.takeByte b).fst = s.fst := rfl
@[simp] theorem State.takeByte_ph (b : Byte) : (s.takeByte b).ph = s.ph := rfl
@[simp] theorem State.takeByte_cnt (b : Byte) : (s.takeByte b).cnt = s.cnt + 1 := rfl
@[simp] theorem State.takeByte_eosSeen (b : Byte) : (s.takeByte b).eosSeen = s.eosSeen := rfl
@[simp] theorem State.takeByte_keyValid (b : Byte) : (s.takeByte b).keyValid = s.keyValid := rfl
@[simp] theorem State.takeByte_ibuf (b : Byte) : (s.takeByte b).ibuf = s.ibuf.setIfInBounds s.cnt.toNat b := rfl
@[simp] theorem State.takeByte_key (b : Byte) : (s.takeByte b).key = s.key := rfl
@[simp] theorem State.takeByte_xk (b : Byte) : (s.takeByte b).xk = s.xk := rfl
@[simp] theorem State.takeByte_st (b : Byte) : (s.takeByte b).st = s.st := rfl
@[simp] theorem State.takeByte_obuf (b : Byte) : (s.takeByte b).obuf = s.obuf := rfl
@[simp] theorem State.takeByte_upc (b : Byte) : (s.takeByte b).upc = s.upc := rfl
@[simp] theorem State.takeByte_ocnt (b : Byte) : (s.takeByte b).ocnt = s.ocnt := rfl
@[simp] theorem State.takeByte_status (b : Byte) : (s.takeByte b).status = s.status := rfl
@[simp] theorem State.takeByte_taken (b : Byte) : (s.takeByte b).taken = s.taken ++ [b] := rfl
@[simp] theorem State.takeByte_out (b : Byte) : (s.takeByte b).out = s.out := rfl
@[simp] theorem State.takeByte_edge (b : Byte) : (s.takeByte b).edge = s.edge := rfl
@[simp] theorem State.takeByte_funit (b : Byte) : (s.takeByte b).funit = s.funit := rfl
@[simp] theorem State.takeByte_freeCtr (b : Byte) : (s.takeByte b).freeCtr = s.freeCtr := rfl

/-! ## sendByte -/

@[simp] theorem State.sendByte_fst (b : Byte) : (s.sendByte b).fst = s.fst := rfl
@[simp] theorem State.sendByte_ph (b : Byte) : (s.sendByte b).ph = s.ph := rfl
@[simp] theorem State.sendByte_cnt (b : Byte) : (s.sendByte b).cnt = s.cnt := rfl
@[simp] theorem State.sendByte_eosSeen (b : Byte) : (s.sendByte b).eosSeen = s.eosSeen := rfl
@[simp] theorem State.sendByte_keyValid (b : Byte) : (s.sendByte b).keyValid = s.keyValid := rfl
@[simp] theorem State.sendByte_ibuf (b : Byte) : (s.sendByte b).ibuf = s.ibuf := rfl
@[simp] theorem State.sendByte_key (b : Byte) : (s.sendByte b).key = s.key := rfl
@[simp] theorem State.sendByte_xk (b : Byte) : (s.sendByte b).xk = s.xk := rfl
@[simp] theorem State.sendByte_st (b : Byte) : (s.sendByte b).st = s.st := rfl
@[simp] theorem State.sendByte_obuf (b : Byte) : (s.sendByte b).obuf = s.obuf := rfl
@[simp] theorem State.sendByte_upc (b : Byte) : (s.sendByte b).upc = s.upc := rfl
@[simp] theorem State.sendByte_ocnt (b : Byte) : (s.sendByte b).ocnt = s.ocnt + 1 := rfl
@[simp] theorem State.sendByte_status (b : Byte) : (s.sendByte b).status = s.status := rfl
@[simp] theorem State.sendByte_taken (b : Byte) : (s.sendByte b).taken = s.taken := rfl
@[simp] theorem State.sendByte_out (b : Byte) : (s.sendByte b).out = s.out ++ [b] := rfl
@[simp] theorem State.sendByte_edge (b : Byte) : (s.sendByte b).edge = s.edge := rfl
@[simp] theorem State.sendByte_funit (b : Byte) : (s.sendByte b).funit = s.funit := rfl
@[simp] theorem State.sendByte_freeCtr (b : Byte) : (s.sendByte b).freeCtr = s.freeCtr := rfl

/-! ## blockSent -/

@[simp] theorem State.blockSent_fst : s.blockSent.fst = if s.eosSeen then .done else s.fst := by
  unfold State.blockSent; split <;> simp_all
@[simp] theorem State.blockSent_ph : s.blockSent.ph = if s.eosSeen then s.ph else .recv := by
  unfold State.blockSent; split <;> simp_all
@[simp] theorem State.blockSent_cnt : s.blockSent.cnt = if s.eosSeen then s.cnt else 0 := by
  unfold State.blockSent; split <;> simp_all
@[simp] theorem State.blockSent_eosSeen : s.blockSent.eosSeen = s.eosSeen := by
  unfold State.blockSent; split <;> simp_all
@[simp] theorem State.blockSent_keyValid : s.blockSent.keyValid = s.keyValid := by
  unfold State.blockSent; split <;> simp_all
@[simp] theorem State.blockSent_ibuf : s.blockSent.ibuf = if s.eosSeen then s.ibuf else zeroBlock := by
  unfold State.blockSent; split <;> simp_all
@[simp] theorem State.blockSent_key : s.blockSent.key = s.key := by
  unfold State.blockSent; split <;> simp_all
@[simp] theorem State.blockSent_xk : s.blockSent.xk = s.xk := by
  unfold State.blockSent; split <;> simp_all
@[simp] theorem State.blockSent_st : s.blockSent.st = s.st := by
  unfold State.blockSent; split <;> simp_all
@[simp] theorem State.blockSent_obuf : s.blockSent.obuf = s.obuf := by
  unfold State.blockSent; split <;> simp_all
@[simp] theorem State.blockSent_upc : s.blockSent.upc = s.upc := by
  unfold State.blockSent; split <;> simp_all
@[simp] theorem State.blockSent_ocnt : s.blockSent.ocnt = s.ocnt := by
  unfold State.blockSent; split <;> simp_all
@[simp] theorem State.blockSent_status : s.blockSent.status = s.status := by
  unfold State.blockSent; split <;> simp_all
@[simp] theorem State.blockSent_taken : s.blockSent.taken = s.taken := by
  unfold State.blockSent; split <;> simp_all
@[simp] theorem State.blockSent_out : s.blockSent.out = s.out := by
  unfold State.blockSent; split <;> simp_all
@[simp] theorem State.blockSent_edge : s.blockSent.edge = s.edge := by
  unfold State.blockSent; split <;> simp_all
@[simp] theorem State.blockSent_funit : s.blockSent.funit = s.funit := by
  unfold State.blockSent; split <;> simp_all
@[simp] theorem State.blockSent_freeCtr : s.blockSent.freeCtr = s.freeCtr := by
  unfold State.blockSent; split <;> simp_all

end Sys2Proof.Machine
end

