-- ==== Sys2Proof/Laws/Memory.lean ====
section
/-! SUPPORT. Reading the address spaces (20_memory.md R40, R41): the ROMs read the same in every state, `XK` reads the register, and a
read after `MemWrite` gives what was written. -/

namespace Sys2Proof.Machine

/-- Two states with the same `XK` read the same everywhere: no other space is state (R27). -/
theorem memRead_congr {s t : State} (h : t.xk = s.xk) (sp : Space) (a : Nat) : memRead t sp a = memRead s sp a := by
  cases sp <;> simp [memRead, h]

/-- A space other than `XK` reads the same in every state. -/
theorem memRead_rom (s t : State) {sp : Space} (h : sp ≠ .xk) (a : Nat) : memRead t sp a = memRead s sp a := by
  cases sp <;> first | rfl | exact absurd rfl h

/-- `XK` inside its range. -/
theorem memRead_xk_of_lt (s : State) {a : Nat} (h : a < 176) : memRead s .xk a = some s.xk[a] := by
  simp [memRead, h]

/-- `MPROM` inside its range. -/
theorem memRead_mprom_of_lt (s : State) {a : Nat} (h : a < Config.mpromDepth) : memRead s .mprom a = some (romWord a) := by
  simp [memRead, h]

/-- The word of the ROM image. -/
theorem mpromImage_getElem? : ∀ a : Nat, a < Config.mpromDepth → mpromImage[a]? = some (romWord a) := by decide

/-- `MPROM` is its image (R66). -/
theorem memRead_mprom (s : State) (a : Nat) : memRead s .mprom a = mpromImage[a]? := by
  by_cases h : a < Config.mpromDepth
  · rw [memRead_mprom_of_lt s h, mpromImage_getElem? a h]
  · rw [List.getElem?_eq_none (Nat.le_of_not_lt h)]
    simp [memRead, h]

end Sys2Proof.Machine
end

