-- ==== Sys2Proof/Laws/MicroOps.lean ====
section
/-! SUPPORT. What a micro-operation, a sequence of them, and one sequencer step can do (43_cipher_driver.md R149, R150). -/

namespace Sys2Proof.Machine

/-- The decoder yields operations that have a word, and the word it was given. -/
theorem encodeWord_decode_isSome : ∀ w : Byte, (encodeWord (decode w)).isSome = true := by decide

/-- On an operation that has a word, the sequencer's execution is `exec`. -/
theorem execMicro_eq_exec (i : Instr) (h : (encodeWord i).isSome = true) (s : State) : execMicro i s = exec i s := by
  cases i <;> first | rfl | simp [encodeWord] at h

/-- What the sequencer executes for a word is `exec` of what the word decodes to. -/
theorem execMicro_decode (w : Byte) (s : State) : execMicro (decode w) s = exec (decode w) s :=
  execMicro_eq_exec _ (encodeWord_decode_isSome w) s

/-- The word at `upc`, inside the ROM. -/
theorem fetchWord_rom (s : State) (h : s.upc.toNat < Config.mpromDepth) : fetchWord s = some (romWord s.upc.toNat) :=
  memRead_mprom_of_lt s h

/-- A micro-operation that answers a next state is KEXPAND on a valid key, STSTATE, or one that makes a new matrix; each advances
`upc` by one and changes nothing else. -/
theorem execMicro_next {i : Instr} {s t : State} (h : execMicro i s = .next t) :
    (i = .kexpand ∧ s.keyValid = true ∧ t = (s.writeXk (expand s.key)).advance) ∨
    (i = .ststate ∧ t = ({ s with obuf := fromState s.st } : State).advance) ∨
    (i ≠ .kexpand ∧ i ≠ .ststate ∧ ∃ m : StateMatrix, t = s.stepMatrix m) := by
  cases i <;> simp only [execMicro] at h
  case kexpand =>
    unfold execKexpand at h
    split at h
    · cases h; exact .inl ⟨rfl, ‹_›, rfl⟩
    · cases h
  case ststate => cases h; exact .inr (.inl ⟨rfl, rfl⟩)
  all_goals first
    | (cases h; exact .inr (.inr ⟨by simp, by simp, _, rfl⟩))
    | cases h

/-- The empty sequence. -/
@[simp] theorem runMicro_nil (s : State) : runMicro [] s = .next s := rfl

/-- A sequence whose first operation answers a next state. -/
theorem runMicro_cons {i : Instr} {s t : State} (l : List Instr) (h : execMicro i s = .next t) :
    runMicro (i :: l) s = runMicro l t := by
  simp only [runMicro, h]

/-- A sequence in two parts. -/
theorem runMicro_append {l : List Instr} {s t : State} (l' : List Instr) (h : runMicro l s = .next t) :
    runMicro (l ++ l') s = runMicro l' t := by
  induction l generalizing s with
  | nil => cases h; rfl
  | cons i l ih =>
    simp only [runMicro] at h
    split at h
    · rw [List.cons_append, runMicro_cons _ ‹_›]; exact ih h
    · cases h
    · cases h

/-- `finishAt43` on a next state below 43. -/
theorem finishAt43_of_ne {s : State} (h : s.upc ≠ 43) : finishAt43 (.next s) = .next s :=
  if_neg h

/-- `finishAt43` on a next state at 43. -/
theorem finishAt43_of_eq {s : State} (h : s.upc = 43) : finishAt43 (.next s) = .next s.endProgram :=
  if_pos h

/-- USTEP where it is enabled. -/
theorem execUstep_enabled {s : State} {w : Byte} (h : s.executing = true) (hw : fetchWord s = some w) :
    execUstep s = finishAt43 (execMicro (decode w) s) := by
  simp [execUstep, h, hw]

/-- Everything a USTEP that answers a next state can do. -/
theorem execUstep_next {s t : State} (h : execUstep s = .next t) :
    (s.executing = false ∧ t = s) ∨
    (s.executing = true ∧ ∃ (w : Byte) (u : State), fetchWord s = some w ∧ execMicro (decode w) s = .next u ∧
      ((u.upc = 43 ∧ t = u.endProgram) ∨ (u.upc ≠ 43 ∧ t = u))) := by
  unfold execUstep at h
  split at h
  · split at h
    · rename_i w hw
      cases hm : execMicro (decode w) s with
      | next u =>
        rw [hm] at h
        refine .inr ⟨‹_›, w, u, hw, hm, ?_⟩
        by_cases hu : u.upc = 43
        · rw [finishAt43_of_eq hu] at h; cases h; exact .inl ⟨hu, rfl⟩
        · rw [finishAt43_of_ne hu] at h; cases h; exact .inr ⟨hu, rfl⟩
      | fault f => rw [hm] at h; cases h
      | refused r => rw [hm] at h; cases h
    · cases h
  · cases h; exact .inl ⟨Bool.eq_false_of_not_eq_true ‹_›, rfl⟩

end Sys2Proof.Machine
end

