-- ==== Sys2Proof/Laws/PerInstr.lean ====
section
/-! SUPPORT. The family `OneWord`: an operation that has a word encodes to that one word and expands to itself (30_encoding.md R61,
R63); one lemma for each constructor. -/

namespace Sys2Proof.Laws.OneWord

/-- What the family says of an operation. -/
def Statement (i : Instr) : Prop := ∀ w : Byte, encodeWord i = some w → encode i = [w] ∧ expansion i = [i]

/-- An operation that expands to itself. -/
theorem of_expansion {i : Instr} (h : expansion i = [i]) : Statement i := by
  intro w hw
  exact ⟨by simp [encode, h, hw], h⟩

/-- An operation with no word. -/
theorem of_none {i : Instr} (h : encodeWord i = none) : Statement i := by
  intro w hw
  rw [h] at hw
  cases hw

theorem kexpand : Statement .kexpand := of_expansion rfl
theorem ldstate : Statement .ldstate := of_expansion rfl
theorem addRoundKey0 : Statement .addRoundKey0 := of_expansion rfl
theorem addRoundKey1 : Statement .addRoundKey1 := of_expansion rfl
theorem addRoundKey2 : Statement .addRoundKey2 := of_expansion rfl
theorem addRoundKey3 : Statement .addRoundKey3 := of_expansion rfl
theorem addRoundKey4 : Statement .addRoundKey4 := of_expansion rfl
theorem addRoundKey5 : Statement .addRoundKey5 := of_expansion rfl
theorem addRoundKey6 : Statement .addRoundKey6 := of_expansion rfl
theorem addRoundKey7 : Statement .addRoundKey7 := of_expansion rfl
theorem addRoundKey8 : Statement .addRoundKey8 := of_expansion rfl
theorem addRoundKey9 : Statement .addRoundKey9 := of_expansion rfl
theorem addRoundKey10 : Statement .addRoundKey10 := of_expansion rfl
theorem subBytes : Statement .subBytes := of_expansion rfl
theorem shiftRows : Statement .shiftRows := of_expansion rfl
theorem mixColumns : Statement .mixColumns := of_expansion rfl
theorem ststate : Statement .ststate := of_expansion rfl
theorem reserved (w : Byte) : Statement (.reserved w) := of_expansion rfl
theorem initRound : Statement .initRound := of_none rfl
theorem round (r : Nat) : Statement (.round r) := of_none rfl
theorem finalRound : Statement .finalRound := of_none rfl
theorem encrypt : Statement .encrypt := of_none rfl
theorem sboxlk (a : Byte) : Statement (.sboxlk a) := of_none rfl
theorem rconlk (i : Nat) : Statement (.rconlk i) := of_none rfl
theorem loglk (a : Byte) : Statement (.loglk a) := of_none rfl
theorem aloglk (e : Byte) : Statement (.aloglk e) := of_none rfl
theorem gfmul (a : Byte) (b : Byte) : Statement (.gfmul a b) := of_none rfl
theorem rotWord (w : Word) : Statement (.rotWord w) := of_none rfl
theorem subWord (w : Word) : Statement (.subWord w) := of_none rfl
theorem ksCore (w : Word) (i : Nat) : Statement (.ksCore w i) := of_none rfl
theorem kexpWord (xk : ExpandedKey) (n : Nat) : Statement (.kexpWord xk n) := of_none rfl
theorem expand (key : Block) : Statement (.expand key) := of_none rfl
theorem rkSel (xk : ExpandedKey) (r : Nat) : Statement (.rkSel xk r) := of_none rfl
theorem toState (b : Block) : Statement (.toState b) := of_none rfl
theorem fromState (m : StateMatrix) : Statement (.fromState m) := of_none rfl
theorem subBytesF (m : StateMatrix) : Statement (.subBytesF m) := of_none rfl
theorem shiftRowsF (m : StateMatrix) : Statement (.shiftRowsF m) := of_none rfl
theorem mixCol1 (a : Word) : Statement (.mixCol1 a) := of_none rfl
theorem mixColumnsF (m : StateMatrix) : Statement (.mixColumnsF m) := of_none rfl
theorem addRoundKeyF (m : StateMatrix) (k : StateMatrix) : Statement (.addRoundKeyF m k) := of_none rfl
theorem roundF (m : StateMatrix) (k : StateMatrix) : Statement (.roundF m k) := of_none rfl
theorem encryptBlock (p : Block) (k : Block) : Statement (.encryptBlock p k) := of_none rfl
theorem rxByte (b : Byte) : Statement (.rxByte b) := of_none rfl
theorem rxEos : Statement .rxEos := of_none rfl
theorem ustep : Statement .ustep := of_none rfl
theorem txByteOk : Statement .txByteOk := of_none rfl
theorem txByteFail : Statement .txByteFail := of_none rfl
theorem recvInit : Statement .recvInit := of_none rfl
theorem blockComplete : Statement .blockComplete := of_none rfl
theorem loadKey : Statement .loadKey := of_none rfl
theorem startBlk : Statement .startBlk := of_none rfl
theorem endProgram : Statement .endProgram := of_none rfl
theorem reset : Statement .reset := of_none rfl
theorem raiseOutputWriteFailure (n : BitVec 5) : Statement (.raiseOutputWriteFailure n) := of_none rfl

end Sys2Proof.Laws.OneWord
end

