-- ==== Sys2Proof/Laws/Program.lean ====
section
/-! SUPPORT. The micro-program (30_encoding.md R66): the operation at each address of the ROM image, and what each of them makes of
the state matrix in the terms of `matrixAt` (43_cipher_driver.md R144). -/

namespace Sys2Proof.Machine

/-- The first three operations, the last four. -/
theorem decode_rom_ends :
    decode (romWord 0) = .kexpand ∧ decode (romWord 1) = .ldstate ∧ decode (romWord 2) = .addRoundKey0 ∧
    decode (romWord 39) = .subBytes ∧ decode (romWord 40) = .shiftRows ∧ decode (romWord 41) = .addRoundKey10 ∧
    decode (romWord 42) = .ststate := by decide

/-- The operations of the nine full rounds. -/
theorem decode_rom_round : ∀ u : Nat, u < 39 → 3 ≤ u →
    decode (romWord u) =
      if (u - 3) % 4 = 0 then .subBytes else if (u - 3) % 4 = 1 then .shiftRows
      else if (u - 3) % 4 = 2 then .mixColumns else addRoundKeyInstr ((u - 3) / 4 + 1) := by decide

/-- ADDROUNDKEY r by its number. -/
theorem execMicro_addRoundKeyInstr (r : Nat) (h : r ≤ 10) (s : State) :
    execMicro (addRoundKeyInstr r) s = addRoundKeyStep r s := by
  interval_cases r <;> rfl

/-- One more round (R140). -/
theorem rounds_succ (xk : ExpandedKey) (m : StateMatrix) (n : Nat) :
    rounds xk m (n + 1) = roundF (rounds xk m n) (rkSel xk (n + 1)) := rfl

/-- The progress at LDSTATE and before. -/
theorem matrixAt_le_two {p k : Block} {u : Nat} (h : u ≤ 2) : matrixAt p k u = toState p := by
  simp [matrixAt, h]

/-- The progress within the rounds. -/
theorem matrixAt_mid {p k : Block} {u : Nat} (h2 : 3 ≤ u) (h : u ≤ 41) :
    matrixAt p k u =
      partRound (rounds (expand k) (addRoundKeyF (toState p) (rkSel (expand k) 0)) ((u - 3) / 4)) ((u - 3) % 4) := by
  simp [matrixAt, show ¬ u ≤ 2 by omega, h]

/-- The progress at the end. -/
theorem matrixAt_end {p k : Block} {u : Nat} (h : 42 ≤ u) :
    matrixAt p k u =
      finalRoundF (rounds (expand k) (addRoundKeyF (toState p) (rkSel (expand k) 0)) 9) (rkSel (expand k) 10) := by
  simp [matrixAt, show ¬ u ≤ 2 by omega, show ¬ u ≤ 41 by omega]

/-- At the end of the micro-program the matrix is the ciphertext (R140, R144). -/
theorem fromState_matrixAt_end (p k : Block) {u : Nat} (h : 42 ≤ u) : fromState (matrixAt p k u) = encryptBlock p k := by
  rw [matrixAt_end h]
  simp only [encryptBlock]

/-- The operation at an address from 2 to 41, run on the matrix of that address with the schedule in XK, makes the matrix of
the next address. -/
theorem execMicro_rom {s : State} {p k : Block} {u : Nat} (hx : s.xk = expand k) (h2 : 2 ≤ u) (h : u ≤ 41)
    (hm : s.st = matrixAt p k u) :
    execMicro (decode (romWord u)) s = .next (s.stepMatrix (matrixAt p k (u + 1))) := by
  obtain ⟨-, -, d2, d39, d40, d41, -⟩ := decode_rom_ends
  obtain rfl | hu | rfl | rfl | rfl : u = 2 ∨ (3 ≤ u ∧ u < 39) ∨ u = 39 ∨ u = 40 ∨ u = 41 := by omega
  · rw [d2, matrixAt_mid (by omega) (by omega), show (2 + 1 - 3) / 4 = 0 by omega, show (2 + 1 - 3) % 4 = 0 by omega]
    rw [matrixAt_le_two (by omega)] at hm
    simp only [execMicro, execAddRoundKey0, addRoundKeyStep, hm, hx, partRound, rounds]
  · rw [decode_rom_round u hu.2 hu.1]
    rw [matrixAt_mid hu.1 (by omega)] at hm
    obtain e | e | e | e : (u - 3) % 4 = 0 ∨ (u - 3) % 4 = 1 ∨ (u - 3) % 4 = 2 ∨ (u - 3) % 4 = 3 := by omega
    · rw [matrixAt_mid (by omega) (by omega), show (u + 1 - 3) / 4 = (u - 3) / 4 by omega,
        show (u + 1 - 3) % 4 = 1 by omega, if_pos e]
      rw [e] at hm
      simp only [execMicro, execSubBytes, hm, partRound]
    · rw [matrixAt_mid (by omega) (by omega), show (u + 1 - 3) / 4 = (u - 3) / 4 by omega,
        show (u + 1 - 3) % 4 = 2 by omega, if_neg (by omega), if_pos e]
      rw [e] at hm
      simp only [execMicro, execShiftRows, hm, partRound]
    · rw [matrixAt_mid (by omega) (by omega), show (u + 1 - 3) / 4 = (u - 3) / 4 by omega,
        show (u + 1 - 3) % 4 = 3 by omega, if_neg (by omega), if_neg (by omega), if_pos e]
      rw [e] at hm
      simp only [execMicro, execMixColumns, hm, partRound]
    · rw [matrixAt_mid (by omega) (by omega), show (u + 1 - 3) / 4 = (u - 3) / 4 + 1 by omega,
        show (u + 1 - 3) % 4 = 0 by omega, if_neg (by omega), if_neg (by omega), if_neg (by omega),
        execMicro_addRoundKeyInstr _ (by omega), rounds_succ]
      rw [e] at hm
      simp only [addRoundKeyStep, hm, hx, partRound, roundF]
  · rw [d39, matrixAt_mid (by omega) (by omega)]
    rw [matrixAt_mid (by omega) (by omega)] at hm
    simp only [execMicro, execSubBytes, hm, partRound]
  · rw [d40, matrixAt_mid (by omega) (by omega)]
    rw [matrixAt_mid (by omega) (by omega)] at hm
    simp only [execMicro, execShiftRows, hm, partRound]
  · rw [d41, matrixAt_end (by omega)]
    rw [matrixAt_mid (by omega) (by omega)] at hm
    simp only [execMicro, execAddRoundKey10, addRoundKeyStep, hm, hx, partRound, finalRoundF]

end Sys2Proof.Machine
end

