-- ==== Sys2Proof/Laws/Step.lean ====
section
/-! SUPPORT. Everything one edge can do: which event happens (30_encoding.md R71) and what each event can make of the state; sequences of
edges, and runs of steps. -/

namespace Sys2Proof.Machine

/-! ## The conditions -/

theorem receiving_iff (s : State) : s.receiving = true ↔ (s.fst = .awaitingKey ∨ s.fst = .encrypting) ∧ s.ph = .recv := by
  simp [State.receiving]

theorem executing_iff (s : State) : s.executing = true ↔ s.fst = .encrypting ∧ s.ph = .exec := by
  simp [State.executing]

theorem sending_iff (s : State) : s.sending = true ↔ s.fst = .encrypting ∧ s.ph = .send := by
  simp [State.sending]

@[simp] theorem passEdge_receiving (s : State) : s.passEdge.receiving = s.receiving := rfl
@[simp] theorem passEdge_executing (s : State) : s.passEdge.executing = s.executing := rfl
@[simp] theorem passEdge_sending (s : State) : s.passEdge.sending = s.sending := rfl
@[simp] theorem passEdge_fetchWord (s : State) : fetchWord s.passEdge = fetchWord s := rfl

/-! ## The framer's operations -/

/-- BLOCKCOMPLETE where it answers a next state. -/
theorem blockComplete_next {s t : State} (h : blockComplete s = .next t) :
    (s.fst = .awaitingKey ∧ t = s.loadKey) ∨ (s.fst = .encrypting ∧ t = s.startBlk) := by
  unfold blockComplete at h
  split at h <;> cases h
  · exact .inl ⟨‹_›, rfl⟩
  · exact .inr ⟨‹_›, rfl⟩

/-- RXBYTE where it answers a next state. -/
theorem execRxByte_next {b : Byte} {s t : State} (h : execRxByte b s = .next t) :
    (s.receiving = false ∧ t = s) ∨
    (s.receiving = true ∧ s.cnt.toNat < 15 ∧ t = s.takeByte b) ∨
    (s.receiving = true ∧ s.cnt = 15 ∧ s.fst = .awaitingKey ∧ t = (s.takeByte b).loadKey) ∨
    (s.receiving = true ∧ s.cnt = 15 ∧ s.fst = .encrypting ∧ t = (s.takeByte b).startBlk) := by
  unfold execRxByte at h
  split at h
  · split at h
    · have e : (s.takeByte b).cnt = s.cnt + 1 := rfl
      split at h
      · have hc : s.cnt = 15 := by rw [e] at *; bv_omega
        rcases blockComplete_next h with ⟨hf, ht⟩ | ⟨hf, ht⟩
        · exact .inr (.inr (.inl ⟨‹_›, hc, hf, ht⟩))
        · exact .inr (.inr (.inr ⟨‹_›, hc, hf, ht⟩))
      · cases h
        refine .inr (.inl ⟨‹_›, ?_, rfl⟩)
        rw [e] at *
        bv_omega
    · cases h
  · cases h; exact .inl ⟨Bool.eq_false_of_not_eq_true ‹_›, rfl⟩

/-- RXEOS where it answers a next state. -/
theorem execRxEos_next {s t : State} (h : execRxEos s = .next t) :
    (s.receiving = false ∧ t = s) ∨
    (s.receiving = true ∧ s.cnt = 0 ∧ t = { s with fst := .done }) ∨
    (s.receiving = true ∧ s.cnt ≠ 0 ∧ s.fst = .awaitingKey ∧ t = s.setEosSeen.loadKey) ∨
    (s.receiving = true ∧ s.cnt ≠ 0 ∧ s.fst = .encrypting ∧ t = s.setEosSeen.startBlk) := by
  unfold execRxEos at h
  split at h
  · split at h
    · cases h; exact .inr (.inl ⟨‹_›, ‹_›, rfl⟩)
    · rcases blockComplete_next h with ⟨hf, ht⟩ | ⟨hf, ht⟩
      · exact .inr (.inr (.inl ⟨‹_›, ‹_›, hf, ht⟩))
      · exact .inr (.inr (.inr ⟨‹_›, ‹_›, hf, ht⟩))
  · cases h; exact .inl ⟨Bool.eq_false_of_not_eq_true ‹_›, rfl⟩

/-- TXBYTE(ok) where it answers a next state. -/
theorem execTxByteOk_next {s t : State} (h : execTxByteOk s = .next t) :
    (s.sending = false ∧ t = s) ∨
    (s.sending = true ∧ ∃ hi : s.ocnt.toNat < 16,
      (s.ocnt ≠ 15 ∧ t = s.sendByte (s.obuf[s.ocnt.toNat]'hi)) ∨
      (s.ocnt = 15 ∧ t = (s.sendByte (s.obuf[s.ocnt.toNat]'hi)).blockSent)) := by
  unfold execTxByteOk at h
  split at h
  · split at h
    · rename_i b hb
      obtain ⟨hi, rfl⟩ := Vector.getElem?_eq_some_iff.1 hb
      cases h
      refine .inr ⟨‹_›, hi, ?_⟩
      have e : (s.sendByte s.obuf[s.ocnt.toNat]).ocnt = s.ocnt + 1 := rfl
      split
      · refine .inr ⟨?_, rfl⟩; rw [e] at *; bv_omega
      · refine .inl ⟨?_, rfl⟩; rw [e] at *; bv_omega
    · cases h
  · cases h; exact .inl ⟨Bool.eq_false_of_not_eq_true ‹_›, rfl⟩

/-! ## One edge -/

/-- An edge runs the selected event. -/
theorem onEdge_of_event {p : Pins} {s : State} {i : Instr} (h : selectEvent p s = some i) : onEdge p s = exec i s := by
  simp only [onEdge, h]

/-- An edge with no event leaves the state. -/
theorem onEdge_of_wait {p : Pins} {s : State} (h : selectEvent p s = none) : onEdge p s = .next s := by
  simp only [onEdge, h]

/-- The selection looks at no field that the passing of an edge changes. -/
@[simp] theorem passEdge_selectEvent (p : Pins) (s : State) : selectEvent p s.passEdge = selectEvent p s := rfl

/-- Everything an edge that answers a next state can do, with its guard. -/
theorem onEdge_next {p : Pins} {s t : State} (h : onEdge p s = .next t) :
    (p.rst = true ∧ t = s.takeReset) ∨
    (p.rst = false ∧
      (t = s ∨
      (s.receiving = true ∧ p.inValid = true ∧ execRxByte p.inData s = .next t) ∨
      (s.receiving = true ∧ p.inValid = false ∧ p.inEos = true ∧ execRxEos s = .next t) ∨
      (s.executing = true ∧ execUstep s = .next t) ∨
      (s.sending = true ∧ p.outErr = true ∧ t = s.raiseOutputWriteFailure s.ocnt) ∨
      (s.sending = true ∧ p.outErr = false ∧ p.outReady = true ∧ execTxByteOk s = .next t))) := by
  unfold onEdge at h
  split at h
  · rename_i i hi
    unfold selectEvent at hi
    repeat' split at hi
    all_goals cases hi
    all_goals simp only [exec] at h
    · cases h; exact .inl ⟨‹_›, rfl⟩
    · exact .inr ⟨Bool.eq_false_of_not_eq_true ‹_›, .inr (.inl ⟨‹_›, ‹_›, h⟩)⟩
    · exact .inr ⟨Bool.eq_false_of_not_eq_true ‹_›, .inr (.inr (.inl ⟨‹_›, Bool.eq_false_of_not_eq_true ‹_›, ‹_›, h⟩))⟩
    · exact .inr ⟨Bool.eq_false_of_not_eq_true ‹_›, .inr (.inr (.inr (.inl ⟨‹_›, h⟩)))⟩
    · rename_i hs he
      unfold execTxByteFail at h
      rw [if_pos hs] at h
      cases h
      exact .inr ⟨Bool.eq_false_of_not_eq_true ‹_›, .inr (.inr (.inr (.inr (.inl ⟨hs, he, rfl⟩))))⟩
    · exact .inr ⟨Bool.eq_false_of_not_eq_true ‹_›, .inr (.inr (.inr (.inr (.inr ⟨‹_›, Bool.eq_false_of_not_eq_true ‹_›, ‹_›, h⟩))))⟩
  · rename_i hn
    cases h
    have hr : p.rst = false := by
      unfold selectEvent at hn
      split at hn
      · cases hn
      · exact Bool.eq_false_of_not_eq_true ‹_›
    exact .inr ⟨hr, .inl rfl⟩

/-! ## Sequences of edges -/

/-- No edge. -/
@[simp] theorem onEdges_nil (s : State) : onEdges [] s = .next s := rfl

/-- An edge and then the rest. -/
theorem onEdges_cons {p : Pins} {s t : State} (l : List Pins) (h : onEdge p s = .next t) :
    onEdges (p :: l) s = onEdges l t := by
  simp only [onEdges, h]

/-- Two sequences of edges, one after the other. -/
theorem onEdges_append {l : List Pins} {s t : State} (l' : List Pins) (h : onEdges l s = .next t) :
    onEdges (l ++ l') s = onEdges l' t := by
  induction l generalizing s with
  | nil => cases h; rfl
  | cons p l ih =>
    simp only [onEdges] at h
    split at h
    · rw [List.cons_append, onEdges_cons _ ‹_›]; exact ih h
    · cases h
    · cases h

/-! ## The step -/

/-- A step is the coming edge, on its pins. -/
theorem step_eq_onEdge (s : State) : step s = onEdge s.pins s.passEdge := rfl

/-- No step. -/
theorem core_run_zero (s : State) : core.run 0 s = .next s := rfl

/-- Running is stepping and then running on. -/
theorem run_succ (M : Host.Core) (k : Nat) (s : M.State) :
    M.run (k + 1) s =
      match M.step s with
      | .next t => M.run k t
      | .fault f => .fault f
      | .refused r => .refused r := by
  cases h : M.step s <;> simp only [Host.Core.run, h]

/-- One step and then `k` more. -/
theorem run_of_step (M : Host.Core) {k : Nat} {s t : M.State} (h : M.step s = .next t) : M.run (k + 1) s = M.run k t := by
  rw [run_succ, h]

/-- `k` steps and then `n` more. -/
theorem run_add (M : Host.Core) {k : Nat} (n : Nat) {s t : M.State} (h : M.run k s = .next t) :
    M.run (n + k) s = M.run n t := by
  induction k generalizing s with
  | zero => cases h; rfl
  | succ k ih =>
    rw [run_succ] at h
    rw [← Nat.add_assoc, run_succ]
    cases hs : M.step s with
    | next u => rw [hs] at h; exact ih h
    | fault f => rw [hs] at h; cases h
    | refused r => rw [hs] at h; cases h

/-- `core` steps by `step`. -/
theorem core_run_of_step {k : Nat} {s t : State} (h : step s = .next t) : core.run (k + 1) s = core.run k t :=
  run_of_step core h

/-- `k` steps of `core` and then `n` more. -/
theorem core_run_add {k : Nat} (n : Nat) {s t : State} (h : core.run k s = .next t) : core.run (n + k) s = core.run n t :=
  run_add core n h

end Sys2Proof.Machine
end

