-- ==== Sys2Proof/Tests/Slice0.lean ====
section
/-! SUPPORT. Tests of one step or one function each: the words written out from 30_encoding.md R63, ill-formed terms that WellFormed
refuses, vectors of 95_test_vectors.md, and for each obligation with hypotheses a witness that meets them. -/

namespace Sys2Proof.Machine.Tests

/-- The result is a next state of which `p` holds. -/
def isNext (r : Result) (p : State → Bool) : Bool :=
  match r with
  | .next t => p t
  | .fault _ => false
  | .refused _ => false

/-- The result is that fault. -/
def isFault (r : Result) (f : Fault) : Bool :=
  match r with
  | .next _ => false
  | .fault g => decide (g = f)
  | .refused _ => false

/-- The result is that refusal. -/
def isRefused (r : Result) (f : Refusal) : Bool :=
  match r with
  | .next _ => false
  | .fault _ => false
  | .refused g => decide (g = f)

/-- At a block boundary, receiving plaintext. -/
def atBlock : State := { State.reset with fst := .encrypting, keyValid := true }

/-- About to run the micro-program. -/
def atProgram : State := { atBlock with ph := .exec, cnt := 16 }

/-- Offering byte `n` of a block. -/
def atByte (n : BitVec 5) : State := { atBlock with ph := .send, cnt := 16, upc := 43, ocnt := n }

/-- A matrix in block form (95_test_vectors.md). -/
def withMatrix (b : Block) : State := { atProgram with st := toState b }

/-! ## WellFormed refuses, one ill-formed term for each check -/

theorem test_wf_reserved : (Instr.reserved 0x3A).wellFormed = false := by decide
theorem test_wf_round_low : (Instr.round 0).wellFormed = false := by decide
theorem test_wf_round_high : (Instr.round 10).wellFormed = false := by decide
theorem test_wf_rconlk_low : (Instr.rconlk 0).wellFormed = false := by decide
theorem test_wf_rconlk_high : (Instr.rconlk 11).wellFormed = false := by decide
theorem test_wf_loglk : (Instr.loglk 0x00).wellFormed = false := by decide
theorem test_wf_aloglk : (Instr.aloglk 0xFF).wellFormed = false := by decide
theorem test_wf_ksCore_low : (Instr.ksCore #v[0, 0, 0, 0] 0).wellFormed = false := by decide
theorem test_wf_ksCore_high : (Instr.ksCore #v[0, 0, 0, 0] 11).wellFormed = false := by decide
theorem test_wf_kexpWord_low : (Instr.kexpWord zeroExpandedKey 3).wellFormed = false := rfl
theorem test_wf_kexpWord_high : (Instr.kexpWord zeroExpandedKey 44).wellFormed = false := rfl
theorem test_wf_rkSel : (Instr.rkSel zeroExpandedKey 11).wellFormed = false := rfl
theorem test_wf_raise : (Instr.raiseOutputWriteFailure 16).wellFormed = false := by decide

/-! ## Words written out from R61 and R63: op in bits 7 to 4, arg in bits 3 to 0 -/

theorem test_decode_kexpand : decodeTableWord 8 0b00010000 = some .kexpand := by decide
theorem test_decode_ldstate : decodeTableWord 8 0b00100000 = some .ldstate := by decide
theorem test_decode_addRoundKey0 : decodeTableWord 8 0b00110000 = some .addRoundKey0 := by decide
theorem test_decode_addRoundKey1 : decodeTableWord 8 0b00110001 = some .addRoundKey1 := by decide
theorem test_decode_addRoundKey2 : decodeTableWord 8 0b00110010 = some .addRoundKey2 := by decide
theorem test_decode_addRoundKey3 : decodeTableWord 8 0b00110011 = some .addRoundKey3 := by decide
theorem test_decode_addRoundKey4 : decodeTableWord 8 0b00110100 = some .addRoundKey4 := by decide
theorem test_decode_addRoundKey5 : decodeTableWord 8 0b00110101 = some .addRoundKey5 := by decide
theorem test_decode_addRoundKey6 : decodeTableWord 8 0b00110110 = some .addRoundKey6 := by decide
theorem test_decode_addRoundKey7 : decodeTableWord 8 0b00110111 = some .addRoundKey7 := by decide
theorem test_decode_addRoundKey8 : decodeTableWord 8 0b00111000 = some .addRoundKey8 := by decide
theorem test_decode_addRoundKey9 : decodeTableWord 8 0b00111001 = some .addRoundKey9 := by decide
theorem test_decode_addRoundKey10 : decodeTableWord 8 0b00111010 = some .addRoundKey10 := by decide
theorem test_decode_subBytes : decodeTableWord 8 0b01000000 = some .subBytes := by decide
theorem test_decode_shiftRows : decodeTableWord 8 0b01010000 = some .shiftRows := by decide
theorem test_decode_mixColumns : decodeTableWord 8 0b01100000 = some .mixColumns := by decide
theorem test_decode_ststate : decodeTableWord 8 0b01110000 = some .ststate := by decide
theorem test_decode_reserved :
    ∀ w ∈ ([0x00, 0x01, 0x0F, 0x11, 0x2F, 0x3B, 0x3F, 0x41, 0x51, 0x61, 0x71, 0x80, 0xA5, 0xFF] : List Nat),
      decodeTableWord 8 w = some (.reserved (BitVec.ofNat 8 w)) := by decide
theorem test_decode_lengths : decodeTableWord 16 0x10 = none ∧ decodeTableWord 8 0x100 = none := by decide
/-- T71. -/
theorem test_rom_image : encode .encrypt =
    [0x10, 0x20, 0x30, 0x40, 0x50, 0x60, 0x31, 0x40, 0x50, 0x60, 0x32, 0x40, 0x50, 0x60, 0x33] ++
      [0x40, 0x50, 0x60, 0x34, 0x40, 0x50, 0x60, 0x35, 0x40, 0x50, 0x60, 0x36, 0x40, 0x50, 0x60, 0x37] ++
        [0x40, 0x50, 0x60, 0x38, 0x40, 0x50, 0x60, 0x39, 0x40, 0x50, 0x3A, 0x70] ∧
    mpromImage = encode .encrypt := by decide
/-- T70: a reserved word is refused, and the ROM holds none. -/
theorem test_reserved_refused : isRefused (exec (.reserved 0x3B) State.reset) (.reservedWord 0x3B) = true ∧
    (mpromImage.all fun w => decide (decode w ≠ .reserved w)) = true := by decide

/-! ## Tables and the multiplier: T10 to T12 -/

theorem test_sboxlk : sboxLookup 0x00 = 0x63 ∧ sboxLookup 0x01 = 0x7C ∧ sboxLookup 0x10 = 0xCA ∧ sboxLookup 0x53 = 0xED ∧
    sboxLookup 0xFF = 0x16 := by decide
theorem test_rconlk : rconLookup 1 = 0x01 ∧ rconLookup 8 = 0x80 ∧ rconLookup 9 = 0x1B ∧ rconLookup 10 = 0x36 := by decide
theorem test_rconlk_refused : isRefused (exec (.rconlk 11) State.reset) .roundConstantIndex = true := by decide
theorem test_loglk : logLookup 0x02 = 0x19 ∧ logLookup 0x03 = 0x01 ∧ logLookup 0x53 = 0x30 ∧ logLookup 0xFF = 0x07 := by decide
theorem test_loglk_refused : isRefused (exec (.loglk 0x00) State.reset) .logarithmOfZero = true := by decide
theorem test_aloglk : alogLookup 0x00 = 0x01 ∧ alogLookup 0x01 = 0x03 ∧ alogLookup 0x19 = 0x02 ∧ alogLookup 0xFE = 0xF6 := by decide
theorem test_gfmul : gfMul 0x57 0x83 = 0xC1 ∧ gfMul 0x02 0x80 = 0x1B ∧ gfMul 0x53 0xCA = 0x01 ∧ gfMul 0xF6 0xF6 = 0x52 ∧
    gfMul 0x0E 0x0E = 0x54 := by decide
theorem test_gfmul_zero : gfMul 0x00 0x57 = 0x00 ∧ gfMul 0x57 0x00 = 0x00 ∧ gfMul 0xFF 0x00 = 0x00 := by decide

/-! ## Key schedule: T24, T25 -/

theorem test_rotWord : rotWord #v[0x09, 0xCF, 0x4F, 0x3C] = #v[0xCF, 0x4F, 0x3C, 0x09] := by decide
theorem test_subWord : subWord #v[0xCF, 0x4F, 0x3C, 0x09] = #v[0x8A, 0x84, 0xEB, 0x01] := by decide
theorem test_ksCore : ksCore #v[0x4C, 0x66, 0x49, 0x41] 10 = #v[0x05, 0x3B, 0x83, 0x29] := by decide
theorem test_ksCore_refused : isRefused (exec (.ksCore #v[0, 0, 0, 0] 11) State.reset) .roundConstantIndex = true := by decide

/-- The key of T21. -/
def keyT21 : Block := #v[0x2B, 0x7E, 0x15, 0x16, 0x28, 0xAE, 0xD2, 0xA6, 0xAB, 0xF7, 0x15, 0x88, 0x09, 0xCF, 0x4F, 0x3C]
/-- The plaintext of T34. -/
def textT34 : Block := #v[0x32, 0x43, 0xF6, 0xA8, 0x88, 0x5A, 0x30, 0x8D, 0x31, 0x31, 0x98, 0xA2, 0xE0, 0x37, 0x07, 0x34]

/-- T24: word 4 at the boundary. -/
theorem test_kexpWord : kexpWord (expandWords keyT21 0) 4 = #v[0xA0, 0xFA, 0xFE, 0x17] := by decide +kernel
theorem test_kexpWord_refused : isRefused (exec (.kexpWord zeroExpandedKey 44) State.reset) .scheduleWordIndex = true := rfl

/-! ## Rounds: T9, T30 to T34, P2, P3, P7 -/

/-- T9. -/
theorem test_toState : toState #v[0x00, 0x01, 0x02, 0x03, 0x04, 0x05, 0x06, 0x07, 0x08, 0x09, 0x0A, 0x0B, 0x0C, 0x0D, 0x0E, 0x0F] = #v[#v[0x00, 0x04, 0x08, 0x0C], #v[0x01, 0x05, 0x09, 0x0D], #v[0x02, 0x06, 0x0A, 0x0E], #v[0x03, 0x07, 0x0B, 0x0F]] := by decide
/-- T9. -/
theorem test_fromState : fromState #v[#v[0x00, 0x04, 0x08, 0x0C], #v[0x01, 0x05, 0x09, 0x0D], #v[0x02, 0x06, 0x0A, 0x0E], #v[0x03, 0x07, 0x0B, 0x0F]] = #v[0x00, 0x01, 0x02, 0x03, 0x04, 0x05, 0x06, 0x07, 0x08, 0x09, 0x0A, 0x0B, 0x0C, 0x0D, 0x0E, 0x0F] := by decide
/-- T30. -/
theorem test_subBytesF : fromState (subBytesF (toState #v[0x19, 0x3D, 0xE3, 0xBE, 0xA0, 0xF4, 0xE2, 0x2B, 0x9A, 0xC6, 0x8D, 0x2A, 0xE9, 0xF8, 0x48, 0x08])) = #v[0xD4, 0x27, 0x11, 0xAE, 0xE0, 0xBF, 0x98, 0xF1, 0xB8, 0xB4, 0x5D, 0xE5, 0x1E, 0x41, 0x52, 0x30] := by decide
/-- T31. -/
theorem test_shiftRowsF : fromState (shiftRowsF (toState #v[0x00, 0x01, 0x02, 0x03, 0x04, 0x05, 0x06, 0x07, 0x08, 0x09, 0x0A, 0x0B, 0x0C, 0x0D, 0x0E, 0x0F])) = #v[0x00, 0x05, 0x0A, 0x0F, 0x04, 0x09, 0x0E, 0x03, 0x08, 0x0D, 0x02, 0x07, 0x0C, 0x01, 0x06, 0x0B] := by decide
/-- T32. -/
theorem test_mixCol1 : mixCol1 #v[0xD4, 0xBF, 0x5D, 0x30] = #v[0x04, 0x66, 0x81, 0xE5] := by decide
/-- T33. -/
theorem test_mixColumnsF : fromState (mixColumnsF (toState #v[0xD4, 0xBF, 0x5D, 0x30, 0xE0, 0xB4, 0x52, 0xAE, 0xB8, 0x41, 0x11, 0xF1, 0x1E, 0x27, 0x98, 0xE5])) = #v[0x04, 0x66, 0x81, 0xE5, 0xE0, 0xCB, 0x19, 0x9A, 0x48, 0xF8, 0xD3, 0x7A, 0x28, 0x06, 0x26, 0x4C] := by decide
/-- T33. -/
theorem test_addRoundKeyF : fromState (addRoundKeyF (toState #v[0x04, 0x66, 0x81, 0xE5, 0xE0, 0xCB, 0x19, 0x9A, 0x48, 0xF8, 0xD3, 0x7A, 0x28, 0x06, 0x26, 0x4C])
    (toState #v[0xA0, 0xFA, 0xFE, 0x17, 0x88, 0x54, 0x2C, 0xB1, 0x23, 0xA3, 0x39, 0x39, 0x2A, 0x6C, 0x76, 0x05])) = #v[0xA4, 0x9C, 0x7F, 0xF2, 0x68, 0x9F, 0x35, 0x2B, 0x6B, 0x5B, 0xEA, 0x43, 0x02, 0x6A, 0x50, 0x49] := by decide
/-- T34, round 1. -/
theorem test_roundF : fromState (roundF (toState #v[0x19, 0x3D, 0xE3, 0xBE, 0xA0, 0xF4, 0xE2, 0x2B, 0x9A, 0xC6, 0x8D, 0x2A, 0xE9, 0xF8, 0x48, 0x08])
    (toState #v[0xA0, 0xFA, 0xFE, 0x17, 0x88, 0x54, 0x2C, 0xB1, 0x23, 0xA3, 0x39, 0x39, 0x2A, 0x6C, 0x76, 0x05])) = #v[0xA4, 0x9C, 0x7F, 0xF2, 0x68, 0x9F, 0x35, 0x2B, 0x6B, 0x5B, 0xEA, 0x43, 0x02, 0x6A, 0x50, 0x49] := by decide

/-! ## Micro-operations through the step -/

/-- P2. -/
theorem test_step_subBytes : isNext (step ((withMatrix #v[0x19, 0x3D, 0xE3, 0xBE, 0xA0, 0xF4, 0xE2, 0x2B, 0x9A, 0xC6, 0x8D, 0x2A, 0xE9, 0xF8, 0x48, 0x08]).withFetchWord 8 0x40))
    (fun t => decide (fromState t.st = #v[0xD4, 0x27, 0x11, 0xAE, 0xE0, 0xBF, 0x98, 0xF1, 0xB8, 0xB4, 0x5D, 0xE5, 0x1E, 0x41, 0x52, 0x30] ∧ t.upc = 4)) = true := by decide +kernel
/-- P2. -/
theorem test_step_shiftRows : isNext (step ((withMatrix #v[0xD4, 0x27, 0x11, 0xAE, 0xE0, 0xBF, 0x98, 0xF1, 0xB8, 0xB4, 0x5D, 0xE5, 0x1E, 0x41, 0x52, 0x30]).withFetchWord 8 0x50))
    (fun t => decide (fromState t.st = #v[0xD4, 0xBF, 0x5D, 0x30, 0xE0, 0xB4, 0x52, 0xAE, 0xB8, 0x41, 0x11, 0xF1, 0x1E, 0x27, 0x98, 0xE5] ∧ t.upc = 5)) = true := by decide +kernel
/-- P2. -/
theorem test_step_mixColumns : isNext (step ((withMatrix #v[0xD4, 0xBF, 0x5D, 0x30, 0xE0, 0xB4, 0x52, 0xAE, 0xB8, 0x41, 0x11, 0xF1, 0x1E, 0x27, 0x98, 0xE5]).withFetchWord 8 0x60))
    (fun t => decide (fromState t.st = #v[0x04, 0x66, 0x81, 0xE5, 0xE0, 0xCB, 0x19, 0x9A, 0x48, 0xF8, 0xD3, 0x7A, 0x28, 0x06, 0x26, 0x4C] ∧ t.upc = 6)) = true := by decide +kernel
/-- P1, upc 0: the first words of the schedule. -/
theorem test_step_kexpand : isNext (step ({ atProgram with key := keyT21 }.withFetchWord 8 0x10))
    (fun t => decide (t.upc = 1 ∧ scheduleWord t.xk 3 = #v[0x09, 0xCF, 0x4F, 0x3C])) = true := by decide +kernel
theorem test_kexpand_fault : isFault (exec .kexpand State.reset) .keyNotValid = true := by decide
/-- P1, upc 1. -/
theorem test_step_ldstate : isNext (step ({ atProgram with ibuf := textT34 }.withFetchWord 8 0x20))
    (fun t => decide (t.st = #v[#v[0x32, 0x88, 0x31, 0xE0], #v[0x43, 0x5A, 0x31, 0x37], #v[0xF6, 0x30, 0x98, 0x07],
      #v[0xA8, 0x8D, 0xA2, 0x34]])) = true := by decide +kernel
/-- P3, upc 42. -/
theorem test_step_ststate : isNext (onEdge .idle ({ withMatrix #v[0x39, 0x25, 0x84, 0x1D, 0x02, 0xDC, 0x09, 0xFB, 0xDC, 0x11, 0x85, 0x97, 0x19, 0x6A, 0x0B, 0x32] with upc := 42 }))
    (fun t => decide (t.obuf = #v[0x39, 0x25, 0x84, 0x1D, 0x02, 0xDC, 0x09, 0xFB, 0xDC, 0x11, 0x85, 0x97, 0x19, 0x6A, 0x0B, 0x32] ∧
      t.upc = 43 ∧ t.ph = .send ∧ t.ocnt = 0 ∧ outData .idle t = some 0x39)) = true := by decide +kernel
/-- P7, upc 1: round key 5 of T22, its bytes 80, 81, 84 and 95. -/
theorem test_step_addRoundKey5 :
    isNext (step ({ withMatrix #v[0x00, 0x11, 0x22, 0x33, 0x44, 0x55, 0x66, 0x77, 0x88, 0x99, 0xAA, 0xBB, 0xCC, 0xDD, 0xEE, 0xFF] with
        xk := (((zeroExpandedKey.set 80 0x3C).set 81 0xAA).set 84 0xA9).set 95 0xAA }.withFetchWord 8 0x35))
      (fun t => decide ((fromState t.st)[0] = 0x3C ∧ (fromState t.st)[1] = 0xBB ∧ (fromState t.st)[4] = 0xED ∧
        (fromState t.st)[15] = 0x55)) = true := by decide +kernel
/-- T36, the row of FIPS-197 Appendix C.1: asymmetric key and plaintext. -/
theorem test_encryptBlock : encryptBlock #v[0x00, 0x11, 0x22, 0x33, 0x44, 0x55, 0x66, 0x77, 0x88, 0x99, 0xAA, 0xBB, 0xCC, 0xDD, 0xEE, 0xFF]
    #v[0x00, 0x01, 0x02, 0x03, 0x04, 0x05, 0x06, 0x07, 0x08, 0x09, 0x0A, 0x0B, 0x0C, 0x0D, 0x0E, 0x0F] =
    #v[0x69, 0xC4, 0xE0, 0xD8, 0x6A, 0x7B, 0x04, 0x30, 0xD8, 0xCD, 0xB7, 0x80, 0x70, 0xB4, 0xC5, 0x5A] := by decide +kernel

/-! ## The framer -/

/-- R162. -/
theorem test_rxByte : isNext (exec (.rxByte 0xA5) { atBlock with cnt := 3 })
    (fun t => decide (t.ibuf[3] = 0xA5 ∧ t.ibuf[2] = 0x00 ∧ t.cnt = 4 ∧ t.ph = .recv ∧ t.taken = [0xA5])) = true := by decide
/-- P5, step 32. -/
theorem test_rxByte_last : isNext (exec (.rxByte 0x5F) { atBlock with cnt := 15, upc := 43 })
    (fun t => decide (t.ibuf[15] = 0x5F ∧ t.cnt = 16 ∧ t.ph = .exec ∧ t.upc = 0)) = true := by decide
/-- P5, step 16. -/
theorem test_loadKey : isNext (exec (.rxByte 0xAF) { State.reset with cnt := 15 })
    (fun t => decide (t.key[15] = 0xAF ∧ t.keyValid = true ∧ t.fst = .encrypting ∧ t.ibuf = zeroBlock ∧ t.cnt = 0 ∧
      t.ph = .recv)) = true := by decide
/-- T45. -/
theorem test_rxEos_empty : isNext (exec .rxEos State.reset)
    (fun t => decide (t.fst = .done ∧ t.status = 0x00 ∧ t.keyValid = false ∧ t.eosSeen = false)) = true := by decide
/-- T42: the key block ends short. -/
theorem test_rxEos_key : isNext (exec .rxEos { State.reset with cnt := 3, ibuf := (zeroBlock.set 0 0x2B).set 1 0x7E })
    (fun t => decide (t.fst = .done ∧ t.eosSeen = true ∧ t.keyValid = true ∧ t.key[0] = 0x2B ∧ t.key[3] = 0x00 ∧ t.cnt = 0)) =
      true := by decide
/-- T51: the sixth byte fails. -/
theorem test_txByteFail : isNext (exec .txByteFail (atByte 5))
    (fun t => decide (t.fst = .fault ∧ t.status = 0x01 ∧ t.ocnt = 5 ∧ t.out = [] ∧ t.ph = .send)) = true := by decide
/-- T55 (a). -/
theorem test_priority_out : isNext (onEdge { Pins.idle with outReady := true, outErr := true } (atByte 5))
    (fun t => decide (t.fst = .fault ∧ t.out = [])) = true := by decide
/-- T55 (c). -/
theorem test_priority_in :
    isNext (onEdge { Pins.idle with inValid := true, inData := 0x11, inEos := true } atBlock)
      (fun t => decide (t.cnt = 1 ∧ t.eosSeen = false ∧ t.taken = [0x11])) = true := by decide
theorem test_txByteOk : isNext (exec .txByteOk { atByte 4 with obuf := zeroBlock.set 4 0x77 })
    (fun t => decide (t.out = [0x77] ∧ t.ocnt = 5 ∧ t.ph = .send)) = true := by decide
/-- P5, step 91. -/
theorem test_txByteOk_last : isNext (exec .txByteOk { atByte 15 with ibuf := zeroBlock.set 0 0xC0 })
    (fun t => decide (t.ocnt = 16 ∧ t.ibuf = zeroBlock ∧ t.cnt = 0 ∧ t.ph = .recv ∧ t.fst = .encrypting)) = true := by decide
theorem test_startBlk_fault : isFault (exec .startBlk State.reset) .outOfContext = true := by decide
theorem test_endProgram : isNext (exec .endProgram { atProgram with upc := 43, ocnt := 16 })
    (fun t => decide (t.ph = .send ∧ t.ocnt = 0)) = true := by decide
/-- R220, on the words that are not free. -/
theorem test_reset : isNext (onEdge { Pins.idle with rst := true, outErr := true } { atByte 7 with status := 0x01 })
    (fun t => decide (t.fst = .awaitingKey ∧ t.ph = .recv ∧ t.status = 0x00 ∧ t.keyValid = false ∧ t.ocnt = 0)) = true := rfl
theorem test_statusWord : (atByte 0).statusWord = 0x100 ∧ { atByte 0 with fst := .fault, status := 0x01 }.statusWord = 0x301 := by
  decide
/-- R40: the last address of a space and the first beyond. -/
theorem test_spaces : memRead State.reset .mprom 42 = some 0x70 ∧ memRead State.reset .mprom 43 = none ∧
    memRead State.reset .rcon 10 = some 0x36 ∧ memRead State.reset .rcon 11 = none ∧
    memRead State.reset .sbox 255 = some 0x16 ∧ memRead State.reset .log 256 = none ∧ memRead State.reset .xk 176 = none := by decide
theorem test_fetchAddress : fetchAddress 0 0x40 = 3 ∧ fetchAddress 39 0x40 = 39 ∧ fetchAddress 0 0x3B = 43 := by decide


/-! ## Witnesses: for each obligation with hypotheses, states and operands that meet them, at the ends of their ranges -/

/-- A state the step can run from, on edge 0: the micro-program about to store its result. -/
def atStore : State :=
  { atProgram with edge := 0, upc := 42, xk := expand zeroBlock, st := matrixAt zeroBlock zeroBlock 42 }

/-- On edge 0, at a block boundary after an all-zero key block. -/
def atStream : State := { atBlock with edge := 0, taken := List.replicate 16 0x00 }

/-- `isNext` gives the next state. -/
theorem exists_next {r : Result} {p : State → Bool} (h : isNext r p = true) : ∃ t : State, r = .next t ∧ p t = true := by
  cases r with
  | next t => exact ⟨t, rfl, h⟩
  | fault f => cases h
  | refused f => cases h

theorem witness_LegalWordsDecodeToTheirRows :
    ∀ w ∈ ([0x00, 0x3B, 0xFF] : List Byte), w ∉ ([0x10, 0x20, 0x30, 0x31, 0x32, 0x33, 0x34, 0x35, 0x36, 0x37, 0x38, 0x39,
      0x3A, 0x40, 0x50, 0x60, 0x70] : List Byte) := by decide

theorem witness_ReservedWordsAreRefused : 0 ≤ 42 ∧ 42 ≤ 42 := by decide

theorem witness_DecodeAndEncodeAgree :
    (Instr.wellFormed (.reserved 0xFF) = true ∧ encodeWord (.reserved 0xFF) = some 0xFF) ∧
    (Instr.wellFormed .addRoundKey10 = true ∧ encodeWord .addRoundKey10 = some 0x3A) ∧
    (Instr.wellFormed (.round 9) = true ∧ .addRoundKey9 ∈ expansion (.round 9)) := by decide

theorem witness_PseudoOperationsExpand : (1 ≤ 1 ∧ 1 ≤ 9) ∧ (1 ≤ 9 ∧ 9 ≤ 9) := by decide

theorem witness_MicroProgramIsTheCipherSequence :
    (1 ≤ 1 ∧ 1 ≤ 9) ∧ (1 ≤ 9 ∧ 9 ≤ 9) ∧ 43 ≤ 43 := by decide

/-- A state on edge 0, whose pins are known. -/
def onEdge0 (s : State) : State := { s with edge := 0 }

/-- R8 item 2: what is on the pins from reset on is free, and the idle edge 0 lies before it (log entry 2). -/
theorem test_reset_pins : State.reset.pins = Config.pins 0 ∧ (onEdge0 State.reset).pins = .idle := ⟨rfl, rfl⟩

theorem witness_EventSelectionTable_reset : { Pins.idle with rst := true }.rst = true := rfl

theorem witness_EventSelectionTable_receive :
    (Pins.idle.rst = false ∧ Pins.idle.inValid = false ∧ Pins.idle.inEos = false) ∧
    (let p : Pins := { Pins.idle with inValid := true, inData := 0xFF }
     p.rst = false ∧ p.inValid = true) ∧
    (let p : Pins := { Pins.idle with inEos := true }
     p.rst = false ∧ p.inValid = false ∧ p.inEos = true) ∧
    (State.reset.fst = .awaitingKey ∧ State.reset.ph = .recv) ∧ (atBlock.fst = .encrypting ∧ atBlock.ph = .recv) := by decide

theorem witness_EventSelectionTable_execute :
    Pins.idle.rst = false ∧ atProgram.fst = .encrypting ∧ atProgram.ph = .exec := by decide

theorem witness_EventSelectionTable_send :
    ((atByte 0).fst = .encrypting ∧ (atByte 0).ph = .send ∧ Pins.idle.rst = false ∧ Pins.idle.outErr = false ∧
      Pins.idle.outReady = false) ∧
    (let p : Pins := { Pins.idle with outErr := true }
     p.rst = false ∧ p.outErr = true) ∧
    (let p : Pins := { Pins.idle with outReady := true }
     p.rst = false ∧ p.outErr = false ∧ p.outReady = true) := by decide

theorem witness_EventSelectionTable_terminal :
    Pins.idle.rst = false ∧ { State.reset with fst := .done }.fst = .done ∧
    { State.reset with fst := .fault }.fst = .fault := by decide

theorem witness_StepRunsTheFetchedWord :
    (atProgram.fst = .encrypting ∧ atProgram.ph = .exec ∧ memRead atProgram .mprom atProgram.upc.toNat = some 0x10) ∧
    memRead { atProgram with upc := 42 } .mprom 42 = some 0x70 ∧
    { Pins.idle with outErr := true }.rst = false ∧ (onEdge0 atProgram).pins.rst = false := by decide

theorem witness_PlacedWordRunsNext :
    decode 0x10 ≠ .reserved 0x10 ∧ decode 0x3A ≠ .reserved 0x3A ∧ decode 0x3B = .reserved 0x3B ∧
    memRead State.reset .mprom State.reset.upc.toNat = some 0x10 := by decide

theorem witness_KexpandWritesTheSchedule :
    atProgram.keyValid = true ∧ State.reset.keyValid = false := by decide

theorem witness_SubBytesReplacesEveryByte : ∀ r c : Fin 4, State.reset.st[r][c] = 0x00 := by decide

theorem witness_MixColumnsMultipliesEveryColumn : 1 ≤ 9 ∧ 9 ≤ 9 ∧ 37 = 5 + 4 * (9 - 1) := by decide

theorem witness_AddRoundKeyCombinesTheRoundKey :
    (Instr.addRoundKey0, 0) ∈ ([(.addRoundKey0, 0), (.addRoundKey1, 1), (.addRoundKey2, 2), (.addRoundKey3, 3),
      (.addRoundKey4, 4), (.addRoundKey5, 5), (.addRoundKey6, 6), (.addRoundKey7, 7), (.addRoundKey8, 8), (.addRoundKey9, 9),
      (.addRoundKey10, 10)] : List (Instr × Nat)) ∧ (11 ≤ 11 ∧ 11 ≤ 15) ∧ (11 ≤ 15 ∧ 15 ≤ 15) ∧
    0 ≤ 10 ∧ 10 ≤ 10 := by decide

theorem witness_MicroOperationsFrame :
    ∀ i ∈ ([.kexpand, .ldstate, .addRoundKey0, .addRoundKey10, .subBytes, .shiftRows, .mixColumns, .ststate] : List Instr),
      ∃ t : State, exec i atProgram = .next t := by
  intro i hi
  fin_cases hi <;> exact ⟨_, rfl⟩

theorem witness_RoundPseudoOperationsCompose : (1 ≤ 1 ∧ 1 ≤ 9) ∧ (1 ≤ 9 ∧ 9 ≤ 9) := by decide

theorem witness_EncryptComputesTheCipher :
    (atProgram.keyValid = true ∧ atProgram.upc = 0) ∧ ((atByte 0).keyValid = true ∧ (atByte 0).upc ≠ 0) ∧
    State.reset.keyValid = false := by decide

theorem witness_MicroProgramComputesTheCipher :
    let l : List Pins := List.replicate 42 .idle ++ [{ Pins.idle with inValid := true, outErr := true }]
    atProgram.fst = .encrypting ∧ atProgram.ph = .exec ∧ atProgram.upc = 0 ∧ atProgram.keyValid = true ∧
      l.length = 43 ∧ ∀ p ∈ l, p.rst = false := by decide

theorem witness_SboxIsInverseThenAffine :
    (((0x00 : Byte) = 0x00 → (0x00 : Byte) = 0x00) ∧ ((0x00 : Byte) ≠ 0x00 → carrylessMul 0x00 0x00 = 0x01)) ∧
    (((0x53 : Byte) = 0x00 → (0xCA : Byte) = 0x00) ∧ ((0x53 : Byte) ≠ 0x00 → carrylessMul 0x53 0xCA = 0x01)) := by decide

theorem witness_RconIsPowersOfTwo : (1 ≤ 1 ∧ 1 ≤ 10) ∧ (1 ≤ 10 ∧ 10 ≤ 10) := by decide

theorem witness_LogarithmsAreToBaseThree :
    (0x00 : Byte).toNat ≤ 254 ∧ (0xFE : Byte).toNat ≤ 254 ∧ (0x01 : Byte) ≠ 0x00 ∧ (0xFF : Byte) ≠ 0x00 ∧
    (0 ≤ 254 ∧ powerOfThree 0 = 0x01) := by decide

theorem witness_GfmulIsCarrylessProduct :
    ((0x00 : Byte) = 0x00 ∨ (0x57 : Byte) = 0x00) ∧ ((0x57 : Byte) ≠ 0x00 ∧ (0x83 : Byte) ≠ 0x00) := by decide

theorem witness_GfmulIsAFieldProduct : gfMul 0x00 0x57 = 0x00 ∧ gfMul 0x57 0x00 = 0x00 := by decide

theorem witness_KeyScheduleCore : (1 ≤ 1 ∧ 1 ≤ 10) ∧ (1 ≤ 10 ∧ 10 ≤ 10) := by decide

theorem witness_ScheduleWordRule :
    (4 ≤ 4 ∧ 4 ≤ 43 ∧ 4 % 4 = 0) ∧ (4 ≤ 5 ∧ 5 ≤ 43 ∧ 5 % 4 ≠ 0) ∧ (4 ≤ 40 ∧ 40 ≤ 43 ∧ 40 % 4 = 0) ∧
    (4 ≤ 43 ∧ 43 ≤ 43 ∧ 43 % 4 ≠ 0) := by decide

theorem witness_ExpandIsTheLoop :
    (∀ i : Fin 16, byteAt zeroExpandedKey i.val = zeroBlock[i]) ∧ (4 ≤ 4 ∧ 4 ≤ 43) ∧ (4 ≤ 43 ∧ 43 ≤ 43) := by decide +kernel

theorem witness_RoundKeySelection : 0 ≤ 10 ∧ 10 ≤ 10 ∧ 10 < 11 := by decide

theorem witness_EncryptBlockRoundStructure (p k : Block) :
    let m : Nat → StateMatrix := rounds (expand k) (addRoundKeyF (toState p) (rkSel (expand k) 0))
    m 0 = addRoundKeyF (toState p) (rkSel (expand k) 0) ∧
    ∀ r : Nat, 1 ≤ r → r ≤ 9 → m r = roundF (m (r - 1)) (rkSel (expand k) r) := by
  refine ⟨by simp only [rounds], fun r h _ => ?_⟩
  obtain ⟨n, rfl⟩ : ∃ n, r = n + 1 := ⟨r - 1, by omega⟩
  rw [Nat.add_sub_cancel, rounds_succ]

theorem witness_LaneStructure :
    (∃ t : State, exec .subBytes State.reset = .next t) ∧ (∃ t : State, exec .mixColumns State.reset = .next t) ∧
    (∃ t : State, exec .shiftRows State.reset = .next t) ∧
    (∃ t : State, exec (decode (BitVec.ofNat 8 (0x30 + 0))) State.reset = .next t) ∧
    (∃ t : State, exec (decode (BitVec.ofNat 8 (0x30 + 10))) State.reset = .next t) :=
  ⟨⟨_, rfl⟩, ⟨_, rfl⟩, ⟨_, rfl⟩, ⟨_, rfl⟩, ⟨_, rfl⟩⟩

theorem witness_RxByteTakesOneByte :
    (State.reset.ph = .recv ∧ State.reset.fst = .awaitingKey ∧ State.reset.cnt.toNat ≤ 14) ∧
    (let s : State := { atBlock with cnt := 14 }
     s.ph = .recv ∧ s.fst = .encrypting ∧ s.cnt.toNat ≤ 14) ∧
    (let s : State := { State.reset with cnt := 15 }
     s.ph = .recv ∧ s.fst = .awaitingKey ∧ s.cnt = 15) ∧
    (let s : State := { atBlock with cnt := 15 }
     s.ph = .recv ∧ s.fst = .encrypting ∧ s.cnt = 15) := by decide

theorem witness_EndOfStream :
    (State.reset.ph = .recv ∧ State.reset.fst = .awaitingKey ∧ State.reset.cnt = 0) ∧
    (atBlock.ph = .recv ∧ atBlock.fst = .encrypting ∧ atBlock.cnt = 0) ∧
    ({ atBlock with cnt := 15 }.fst = .encrypting ∧ { atBlock with cnt := 15 }.cnt ≠ 0) ∧
    ({ State.reset with cnt := 1 }.fst = .awaitingKey ∧ { State.reset with cnt := 1 }.cnt ≠ 0) := by decide

theorem witness_TxByteOkAppendsTheByte :
    ((atByte 0).fst = .encrypting ∧ (atByte 0).ph = .send ∧ (atByte 0).ocnt.toNat ≤ 14) ∧ (atByte 14).ocnt.toNat ≤ 14 ∧
    ((atByte 15).fst = .encrypting ∧ (atByte 15).ph = .send ∧ (atByte 15).ocnt = 15 ∧ (atByte 15).eosSeen = false) ∧
    { atByte 15 with eosSeen := true }.eosSeen = true := by decide

theorem witness_OutputWriteFailureEntry : (atByte 0).fst = .encrypting ∧ (atByte 0).ph = .send := by decide

theorem witness_FramerProcedures :
    State.reset.fst = .awaitingKey ∧ atBlock.fst = .encrypting ∧ { State.reset with upc := 43 }.upc = 43 := by decide

theorem witness_OperandsAndContextsOutsideTheRules :
    ((0 : Nat) = 0 ∨ 10 ≤ 0) ∧ (10 = 0 ∨ 10 ≤ 10) ∧ 10 < 11 ∧ (3 < 4 ∨ 43 < 3) ∧ (44 < 4 ∨ 43 < 44) ∧
    atBlock.fst ≠ .awaitingKey ∧ State.reset.fst ≠ .encrypting ∧ { State.reset with fst := .done }.fst = .done ∧
    { State.reset with fst := .fault }.fst = .fault ∧ State.reset.upc ≠ 43 := by decide

theorem witness_UstepAlwaysCompletes :
    (atProgram.fst = .encrypting ∧ atProgram.ph = .exec ∧ atProgram.upc.toNat ≤ 41 ∧ atProgram.keyValid = true) ∧ { atProgram with upc := 41 }.upc.toNat ≤ 41 ∧ { atProgram with upc := 42 }.upc.toNat = 42 := by
  decide

theorem witness_ClosedHandshakesLeaveNoTrace :
    atProgram.ph ≠ .recv ∧ atProgram.ph ≠ .send ∧ atBlock.ph ≠ .exec ∧ { atBlock with fst := .done }.fst = .done := by decide

theorem witness_ResetOverridesEverything :
    { Pins.idle with rst := true, outErr := true }.rst = true := by decide

theorem witness_HandshakePinsAndStatusWord :
    (outValid .idle (atByte 15) = true ∧ (atByte 15).ocnt.toNat ≤ 15) ∧ (atByte 0).ocnt.toNat ≤ 15 ∧
    State.reset.fst = .awaitingKey ∧ atBlock.fst = .encrypting ∧ { State.reset with fst := .done }.fst = .done ∧
    { State.reset with fst := .fault }.fst = .fault := by decide

theorem witness_TerminalStatesAreAbsorbing :
    { atBlock with fst := .fault }.fst = .fault ∧ { Pins.idle with inValid := true }.rst = false ∧ { atBlock with fst := .done }.fst = .done := by decide

theorem witness_KeyIsWrittenOnce_kept :
    atProgram.fst ≠ .awaitingKey ∧ Pins.idle.rst = false ∧ atProgram.keyValid = true ∧
    { atProgram with eosSeen := true }.eosSeen = true ∧ ∃ t : State, onEdge .idle atProgram = .next t :=
  ⟨by decide, by decide, by decide, by decide, _, rfl⟩

theorem witness_KeyIsWrittenOnce_written :
    let s : State := { State.reset with cnt := 15 }
    let p : Pins := { Pins.idle with inValid := true, inData := 0x3C }
    p.rst = false ∧ s.fst = .awaitingKey ∧
      isNext (onEdge p s) (fun t => decide (t.fst = .encrypting ∧ t.key ≠ s.key ∧ t.keyValid ≠ s.keyValid)) = true := by decide

theorem witness_KeyIsWrittenOnce_waiting :
    Pins.idle.rst = false ∧ State.reset.fst = .awaitingKey ∧
      isNext (onEdge .idle State.reset) (fun t => decide (t.fst = .awaitingKey)) = true := by decide

theorem witness_KeyIsWrittenOnce_instructions :
    Instr.rxEos ≠ .reset ∧
    isNext (exec .rxEos { State.reset with cnt := 15, ibuf := zeroBlock.set 0 0x2B })
      (fun t => decide (t.eosSeen ≠ false ∧ t.key ≠ zeroBlock)) = true := by decide

theorem witness_StatusIsWrittenByTheExceptionOnly :
    ∃ t : State, onEdge { Pins.idle with outErr := true } (atByte 15) = .next t ∧ t.status ≠ (atByte 15).status := by
  obtain ⟨t, h, p⟩ := exists_next (r := onEdge { Pins.idle with outErr := true } (atByte 15))
    (p := fun t => decide (t.status ≠ (atByte 15).status)) (by decide)
  exact ⟨t, h, of_decide_eq_true p⟩

/-- The invariants R29 hold at a block boundary. -/
theorem atBlock_invariants : Invariants atBlock :=
  { awaiting := by decide, encrypting := by decide, receiving := by decide, executing := by decide,
    sending := fun h => (by cases h), faultStatus := by decide, doneStatus := by decide }

theorem witness_FramerTransitions :
    Invariants atBlock ∧ Pins.idle.rst = false ∧ ∃ t : State, onEdge .idle atBlock = .next t :=
  ⟨atBlock_invariants, rfl, _, rfl⟩

theorem witness_StreamsOnlyGrow : ∃ t : State, onEdge { Pins.idle with outReady := true } (atByte 15) = .next t :=
  ⟨_, rfl⟩

theorem witness_OnlyKexpandWritesAnAddressSpace :
    (∃ t : State, exec .kexpand { atProgram with key := keyT21 } = .next t) ∧ Instr.kexpand ≠ .reset ∧ Space.mprom ≠ .xk :=
  ⟨⟨_, rfl⟩, by decide, by decide⟩

theorem witness_NoStepReadsAFutureEdge : (∃ t : State, exec .ldstate atProgram = .next t) ∧ Instr.ldstate ≠ .reset ∧
    ∃ t : State, step (onEdge0 atProgram) = .next t :=
  ⟨⟨_, rfl⟩, by decide, _, rfl⟩

theorem witness_AddressSpacesHaveTheirRanges : 0 ≤ 175 ∧ 175 ≤ 175 ∧ Space.mprom ≠ .xk := by decide

/-- The invariants hold where the micro-program is about to store its result: in a state that a run reaches. -/
theorem atStore_inv : Inv atStore where
  r29 :=
    { awaiting := fun h => by cases h
      encrypting := fun _ => ⟨rfl, rfl⟩
      receiving := fun h => by cases h
      executing := fun _ => ⟨rfl, by decide, by decide, by decide⟩
      sending := fun h => by cases h
      faultStatus := ⟨fun h => (by cases h), fun h => absurd h (by decide : ¬ ((0x00 : Byte) = 0x01))⟩
      doneStatus := fun h => by cases h }
  schedule := fun _ _ => rfl
  matrix := fun _ _ => rfl

theorem witness_StepKeepsTheInvariants :
    Inv atStore ∧ (∃ t : State, step atStore = .next t) ∧ ∃ t : State, onEdge .idle atStore = .next t :=
  ⟨atStore_inv, ⟨_, rfl⟩, _, rfl⟩

theorem witness_NoStepStops : Inv atStore := atStore_inv

/-- The streams agree at a block boundary, after an all-zero key block. -/
theorem atStream_inv : StreamInv atStream := by
  refine ⟨⟨⟨?_, ?_, ?_, ?_, ?_, ?_, ?_⟩, ?_, ?_⟩, ?_, ?_, ?_, ?_, ?_, ?_, ?_⟩
  · exact fun h => by cases h
  · exact fun _ => ⟨rfl, rfl⟩
  · exact fun _ _ => by decide
  · exact fun h => by cases h
  · exact fun h => by cases h
  · exact ⟨fun h => (by cases h), fun h => absurd h (by decide)⟩
  · exact fun h => by cases h
  · exact fun h => by cases h
  · exact fun h => by cases h
  · exact fun h => by cases h
  · exact fun _ => by decide +kernel
  · exact fun _ h => absurd rfl h
  · exact fun _ _ => by decide +kernel
  · exact fun _ h => by cases h
  · exact fun h => by cases h
  · exact fun h => by cases h

/-- Offering the first byte of the ciphertext of one block of zeros. -/
def atSend : State :=
  { atStream with ph := .send, cnt := 16, upc := 43, taken := List.replicate 32 0x00, obuf := encryptBlock zeroBlock zeroBlock }

/-- The whole stream of two blocks of zeros. -/
theorem streamOut_two : streamOut (List.replicate 32 0x00) = (encryptBlock zeroBlock zeroBlock).toList := by
  have e0 : streamBlock (List.replicate 32 0x00) 0 = zeroBlock := by decide +kernel
  have e1 : streamBlock (List.replicate 32 0x00) 1 = zeroBlock := by decide +kernel
  have er : (List.range (blockCount (List.replicate 32 (0x00 : Byte)).length)).drop 1 = [1] := by decide
  simp only [streamOut, er, List.flatMap_cons, List.flatMap_nil, e0, e1, List.append_nil]

/-- The streams agree in phase SEND. -/
theorem atSend_inv : StreamInv atSend := by
  refine ⟨⟨⟨?_, ?_, ?_, ?_, ?_, ?_, ?_⟩, ?_, ?_⟩, ?_, ?_, ?_, ?_, ?_, ?_, ?_⟩
  · exact fun h => by cases h
  · exact fun _ => ⟨rfl, rfl⟩
  · exact fun h => by cases h
  · exact fun h => by cases h
  · exact fun _ _ => ⟨by decide, rfl⟩
  · exact ⟨fun h => (by cases h), fun h => absurd h (by decide : ¬ ((0x00 : Byte) = 0x01))⟩
  · exact fun h => by cases h
  · exact fun h => by cases h
  · exact fun h => by cases h
  · exact fun h => by cases h
  · exact fun _ => ⟨by decide, by decide, by decide, by decide +kernel, by decide +kernel⟩
  · exact fun _ _ => ⟨by decide, by decide, .inl rfl⟩
  · exact fun _ h => absurd rfl h
  · intro _ _
    have e : streamOut (atSend.taken.take (handledLength atSend)) = [] := by decide +kernel
    rw [e]
    rfl
  · exact fun h => by cases h
  · exact fun h => by cases h

/-- The streams agree at FAULT, the first byte having failed. -/
theorem atFault_inv : StreamInv { atSend with fst := .fault, status := 0x01 } := by
  have hs : streamOut ({ atSend with fst := .fault, status := 0x01 } : State).taken = (encryptBlock zeroBlock zeroBlock).toList :=
    streamOut_two
  refine ⟨⟨⟨?_, ?_, ?_, ?_, ?_, ?_, ?_⟩, ?_, ?_⟩, ?_, ?_, ?_, ?_, ?_, ?_, ?_⟩
  · exact fun h => by cases h
  · exact fun h => by cases h
  · exact fun h => by cases h
  · exact fun h => by cases h
  · exact fun _ h => by cases h
  · exact ⟨fun _ => rfl, fun _ => rfl⟩
  · exact fun h => by cases h
  · exact fun h => by cases h
  · exact fun h => by cases h
  · exact fun h => by cases h
  · exact fun h => by cases h
  · exact fun h => by cases h
  · exact fun h => by cases h
  · exact fun h => by cases h
  · exact fun h => by cases h
  · refine fun _ => ⟨rfl, ?_, .inl rfl⟩
    rw [hs, Vector.length_toList]
    decide

/-- The streams agree at DONE, after an empty stream. -/
theorem atDone_inv : StreamInv { State.reset with fst := .done } := by
  refine ⟨⟨⟨?_, ?_, ?_, ?_, ?_, ?_, ?_⟩, ?_, ?_⟩, ?_, ?_, ?_, ?_, ?_, ?_, ?_⟩
  · exact fun h => by cases h
  · exact fun h => by cases h
  · exact fun _ h => by rcases h with h | h <;> cases h
  · exact fun h => by cases h
  · exact fun h => by cases h
  · exact ⟨fun h => (by cases h), fun h => absurd h (by decide)⟩
  · exact fun _ => rfl
  · exact fun h => by cases h
  · exact fun h => by cases h
  · exact fun h => by cases h
  · exact fun h => by cases h
  · exact fun h => by cases h
  · exact fun h => by cases h
  · exact fun h => by cases h
  · exact fun _ => by decide
  · exact fun h => by cases h

theorem witness_StepKeepsTheStreamFunction :
    StreamInv atStream ∧ atStream.pins.rst = false ∧ (∃ t : State, step atStream = .next t) ∧
    ∃ t : State, onEdge { Pins.idle with inValid := true } atStream = .next t :=
  ⟨atStream_inv, rfl, ⟨_, rfl⟩, _, rfl⟩

theorem witness_StepKeepsTheStreamFunction_send :
    StreamInv atSend ∧ atSend.pins.rst = false ∧ (∃ t : State, step atSend = .next t) ∧
    ∃ t : State, onEdge { Pins.idle with outErr := true } atSend = .next t :=
  ⟨atSend_inv, rfl, ⟨_, rfl⟩, _, rfl⟩

theorem witness_StepKeepsTheStreamFunction_terminal :
    (StreamInv { State.reset with fst := .done } ∧ ∃ t : State, onEdge .idle { State.reset with fst := .done } = .next t) ∧
    (StreamInv { atSend with fst := .fault, status := 0x01 } ∧
      ∃ t : State, step { atSend with fst := .fault, status := 0x01 } = .next t) :=
  ⟨⟨atDone_inv, _, rfl⟩, atFault_inv, _, rfl⟩

/-- With bytes of an earlier stream in front, and with a reset on the edge (R222) or none. -/
theorem witness_StepKeepsTheStreamFunction_since :
    let s : State := { atStream with taken := [0x11, 0x22] ++ List.replicate 16 0x00, out := [0x33] }
    StreamSince [0x11, 0x22] [0x33] s ∧ (∃ t : State, onEdge { Pins.idle with rst := true } s = .next t) ∧
      ∃ t : State, step s = .next t := by
  refine ⟨⟨List.replicate 16 0x00, [], rfl, rfl, ?_⟩, ⟨_, rfl⟩, _, rfl⟩
  obtain ⟨⟨⟨a, b, c, d, e, f, g⟩, h1, h2⟩, h3, h4, h5, h6, h7, h8, h9⟩ := atStream_inv
  exact ⟨⟨⟨a, b, c, d, e, f, g⟩, h1, h2⟩, h3, h4, h5, h6, h7, h8, h9⟩

/-- One block, its 43 edges idle or stalled. -/
theorem witness_OneBlockIsEncrypted :
    let mid : List Pins := List.replicate 42 .idle ++ [{ Pins.idle with inValid := true }]
    atBlock.fst = .encrypting ∧ atBlock.ph = .recv ∧ atBlock.cnt = 0 ∧ atBlock.eosSeen = false ∧ atBlock.keyValid = true ∧
      atBlock.ibuf = zeroBlock ∧ mid.length = 43 ∧ (∀ e ∈ mid, e.rst = false) := by
  refine ⟨rfl, rfl, rfl, rfl, rfl, rfl, by decide, by decide⟩

end Sys2Proof.Machine.Tests
end

section
/-! SUPPORT. Everything an edge that answers a next state can make of the state, in one list of cases. -/

namespace Sys2Proof.Machine

/-- What one edge on the pins `p` can make of `s`: a case for each event of R71 and each way it can end. -/
inductive EdgeEffect (p : Pins) (s : State) : State → Prop where
  | reset (hr : p.rst = true) : EdgeEffect p s s.takeReset
  | wait (hr : p.rst = false) : EdgeEffect p s s
  | byte (hr : p.rst = false) (hf : s.fst = .awaitingKey ∨ s.fst = .encrypting) (hp : s.ph = .recv)
      (hc : s.cnt.toNat < 15) : EdgeEffect p s (s.takeByte p.inData)
  | lastKeyByte (hr : p.rst = false) (hf : s.fst = .awaitingKey) (hp : s.ph = .recv) (hc : s.cnt = 15) :
      EdgeEffect p s (s.takeByte p.inData).loadKey
  | lastBlockByte (hr : p.rst = false) (hf : s.fst = .encrypting) (hp : s.ph = .recv) (hc : s.cnt = 15) :
      EdgeEffect p s (s.takeByte p.inData).startBlk
  | streamEnd (hr : p.rst = false) (hf : s.fst = .awaitingKey ∨ s.fst = .encrypting) (hp : s.ph = .recv)
      (hc : s.cnt = 0) : EdgeEffect p s { s with fst := .done }
  | shortKey (hr : p.rst = false) (hf : s.fst = .awaitingKey) (hp : s.ph = .recv) (hc : s.cnt ≠ 0) :
      EdgeEffect p s s.setEosSeen.loadKey
  | shortBlock (hr : p.rst = false) (hf : s.fst = .encrypting) (hp : s.ph = .recv) (hc : s.cnt ≠ 0) :
      EdgeEffect p s s.setEosSeen.startBlk
  | micro (hr : p.rst = false) (hf : s.fst = .encrypting) (hp : s.ph = .exec) {w : Byte} {t : State}
      (hw : fetchWord s = some w) (hm : execMicro (decode w) s = .next t) (hu : t.upc ≠ 43) : EdgeEffect p s t
  | lastMicro (hr : p.rst = false) (hf : s.fst = .encrypting) (hp : s.ph = .exec) {w : Byte} {t : State}
      (hw : fetchWord s = some w) (hm : execMicro (decode w) s = .next t) (hu : t.upc = 43) :
      EdgeEffect p s t.endProgram
  | failed (hr : p.rst = false) (hf : s.fst = .encrypting) (hp : s.ph = .send) (he : p.outErr = true) :
      EdgeEffect p s (s.raiseOutputWriteFailure s.ocnt)
  | sent (hr : p.rst = false) (hf : s.fst = .encrypting) (hp : s.ph = .send) (b : Byte) (hc : s.ocnt ≠ 15) :
      EdgeEffect p s (s.sendByte b)
  | lastSent (hr : p.rst = false) (hf : s.fst = .encrypting) (hp : s.ph = .send) (b : Byte) (hc : s.ocnt = 15) :
      EdgeEffect p s (s.sendByte b).blockSent

/-- RXBYTE as an effect of an edge. -/
theorem EdgeEffect.of_rxByte {p : Pins} {s t : State} (hr : p.rst = false) (hs : s.receiving = true)
    (h : execRxByte p.inData s = .next t) : EdgeEffect p s t := by
  obtain ⟨hf, hp⟩ := (receiving_iff s).1 hs
  obtain ⟨hn, -⟩ | ⟨-, hc, rfl⟩ | ⟨-, hc, hk, rfl⟩ | ⟨-, hc, hk, rfl⟩ := execRxByte_next h
  · simp [hs] at hn
  · exact .byte hr hf hp hc
  · exact .lastKeyByte hr hk hp hc
  · exact .lastBlockByte hr hk hp hc

/-- RXEOS as an effect of an edge. -/
theorem EdgeEffect.of_rxEos {p : Pins} {s t : State} (hr : p.rst = false) (hs : s.receiving = true)
    (h : execRxEos s = .next t) : EdgeEffect p s t := by
  obtain ⟨hf, hp⟩ := (receiving_iff s).1 hs
  obtain ⟨hn, -⟩ | ⟨-, hc, rfl⟩ | ⟨-, hc, hk, rfl⟩ | ⟨-, hc, hk, rfl⟩ := execRxEos_next h
  · simp [hs] at hn
  · exact .streamEnd hr hf hp hc
  · exact .shortKey hr hk hp hc
  · exact .shortBlock hr hk hp hc

/-- USTEP as an effect of an edge. -/
theorem EdgeEffect.of_ustep {p : Pins} {s t : State} (hr : p.rst = false) (hs : s.executing = true)
    (h : execUstep s = .next t) : EdgeEffect p s t := by
  obtain ⟨hf, hp⟩ := (executing_iff s).1 hs
  obtain ⟨hn, -⟩ | ⟨-, w, u, hw, hm, ⟨hu, rfl⟩ | ⟨hu, rfl⟩⟩ := execUstep_next h
  · simp [hs] at hn
  · exact .lastMicro hr hf hp hw hm hu
  · exact .micro hr hf hp hw hm hu

/-- TXBYTE(ok) as an effect of an edge. -/
theorem EdgeEffect.of_txByteOk {p : Pins} {s t : State} (hr : p.rst = false) (hs : s.sending = true)
    (h : execTxByteOk s = .next t) : EdgeEffect p s t := by
  obtain ⟨hf, hp⟩ := (sending_iff s).1 hs
  obtain ⟨hn, -⟩ | ⟨-, hi, ⟨hc, rfl⟩ | ⟨hc, rfl⟩⟩ := execTxByteOk_next h
  · simp [hs] at hn
  · exact .sent hr hf hp _ hc
  · exact .lastSent hr hf hp _ hc

/-- The list of cases is complete. -/
theorem onEdge_effect {p : Pins} {s t : State} (h : onEdge p s = .next t) : EdgeEffect p s t := by
  obtain ⟨hr, rfl⟩ | ⟨hr, rfl | ⟨hs, -, h⟩ | ⟨hs, -, -, h⟩ | ⟨hs, h⟩ | ⟨hs, he, rfl⟩ | ⟨hs, -, -, h⟩⟩ :=
    onEdge_next h
  · exact .reset hr
  · exact .wait hr
  · exact .of_rxByte hr hs h
  · exact .of_rxEos hr hs h
  · exact .of_ustep hr hs h
  · obtain ⟨hf, hp⟩ := (sending_iff s).1 hs
    exact .failed hr hf hp he
  · exact .of_txByteOk hr hs h

end Sys2Proof.Machine
end

section
/-! PROOFS. The invariants R29 with the progress of the micro-program, state by state and effect by effect. -/

namespace Sys2Proof.Machine

/-! ## What it takes to meet the invariants, by framer state and phase -/

/-- While a block is being received (R29 items 1 to 3). -/
theorem Inv.of_receiving {s : State} (hp : s.ph = .recv)
    (hf : s.fst = .awaitingKey ∧ s.keyValid = false ∨ s.fst = .encrypting ∧ s.keyValid = true)
    (hs : s.status = 0x00) (he : s.eosSeen = false) (hc : s.cnt.toNat ≤ 15)
    (hb : ∀ i : Fin 16, s.cnt.toNat ≤ i.val → s.ibuf[i] = 0x00) : Inv s := by
  obtain ⟨hf, hk⟩ | ⟨hf, hk⟩ := hf
  · exact ⟨by constructor <;> simp_all, by simp [hp], by simp [hp]⟩
  · exact ⟨by constructor <;> simp_all, by simp [hp], by simp [hp]⟩

/-- While the micro-program runs (R29 items 2 and 4). -/
theorem Inv.of_executing {s : State} (hf : s.fst = .encrypting) (hp : s.ph = .exec) (hk : s.keyValid = true)
    (hs : s.status = 0x00) (h1 : 1 ≤ s.cnt.toNat) (h16 : s.cnt.toNat ≤ 16) (hu : s.upc.toNat ≤ 42)
    (hx : 1 ≤ s.upc.toNat → s.xk = expand s.key)
    (hm : 2 ≤ s.upc.toNat → s.st = matrixAt s.ibuf s.key s.upc.toNat) : Inv s :=
  ⟨by constructor <;> simp_all, fun _ => hx, fun _ => hm⟩

/-- While a block is being sent (R29 items 2 and 5). -/
theorem Inv.of_sending {s : State} (hf : s.fst = .encrypting) (hp : s.ph = .send) (hk : s.keyValid = true)
    (hs : s.status = 0x00) (hc : s.ocnt.toNat ≤ 15) (ho : s.obuf = encryptBlock s.ibuf s.key) : Inv s :=
  ⟨by constructor <;> simp_all, by simp [hp], by simp [hp]⟩

/-- In DONE (R29 item 7). -/
theorem Inv.of_done {s : State} (hf : s.fst = .done) (hp : s.ph ≠ .exec) (hs : s.status = 0x00) : Inv s :=
  ⟨by constructor <;> simp_all, by simp [hp], by simp [hp]⟩

/-- In FAULT (R29 item 6). -/
theorem Inv.of_fault {s : State} (hf : s.fst = .fault) (hp : s.ph ≠ .exec) (hs : s.status = 0x01) : Inv s :=
  ⟨by constructor <;> simp_all, by simp [hp], by simp [hp]⟩

/-- At the start of a block nothing of it is there yet (R160). -/
theorem Inv.of_blockStart {s : State} (hp : s.ph = .recv)
    (hf : s.fst = .awaitingKey ∧ s.keyValid = false ∨ s.fst = .encrypting ∧ s.keyValid = true)
    (hs : s.status = 0x00) (he : s.eosSeen = false) (hc : s.cnt = 0) (hb : s.ibuf = zeroBlock) : Inv s :=
  .of_receiving hp hf hs he (by simp [hc]) (by simp [hb, zeroBlock])

/-- No invariant speaks of the number of the edge. -/
theorem Inv.passEdge {s : State} (h : Inv s) : Inv s.passEdge :=
  ⟨⟨h.r29.awaiting, h.r29.encrypting, h.r29.receiving, h.r29.executing, h.r29.sending, h.r29.faultStatus,
    h.r29.doneStatus⟩, h.schedule, h.matrix⟩

/-- Outside DONE and FAULT `status` is 0x00 (R29 items 1 and 2). -/
theorem Inv.status_of_live {s : State} (h : Inv s) (hf : s.fst = .awaitingKey ∨ s.fst = .encrypting) :
    s.status = 0x00 := by
  obtain hf | hf := hf
  · obtain ⟨-, -, hs, -⟩ := h.r29.awaiting hf
    exact hs
  · obtain ⟨-, hs⟩ := h.r29.encrypting hf
    exact hs

/-! ## The effects of an edge keep them -/

/-- Reset starts the key block, from any state (R220). -/
theorem Inv.takeReset (s : State) : Inv s.takeReset :=
  .of_blockStart rfl (.inl ⟨rfl, rfl⟩) rfl rfl rfl rfl

/-- A byte inside a block (R162): what stands behind it in IBUF is still zero. -/
theorem Inv.takeByte {s : State} (h : Inv s) (hf : s.fst = .awaitingKey ∨ s.fst = .encrypting) (hp : s.ph = .recv)
    (hc : s.cnt.toNat < 15) (b : Byte) : Inv (s.takeByte b) := by
  obtain ⟨-, he, hb⟩ := h.r29.receiving hp hf
  have hcnt : (s.cnt + 1).toNat = s.cnt.toNat + 1 := by bv_omega
  refine .of_receiving hp ?_ (h.status_of_live hf) he (by simp only [State.takeByte_cnt]; omega) fun i hi => ?_
  · obtain hf | hf := hf
    · obtain ⟨-, hk, -, -⟩ := h.r29.awaiting hf
      exact .inl ⟨hf, hk⟩
    · obtain ⟨hk, -⟩ := h.r29.encrypting hf
      exact .inr ⟨hf, hk⟩
  · rw [State.takeByte_cnt, hcnt] at hi
    rw [State.takeByte_ibuf, Fin.getElem_fin, Vector.getElem_setIfInBounds_ne (h := by omega)]
    exact hb i (by omega)

/-- The key is loaded before the end of the stream (R165). -/
theorem Inv.loadKey {s : State} (hs : s.status = 0x00) (he : s.eosSeen = false) : Inv s.loadKey :=
  .of_blockStart rfl (.inr ⟨by simp [he], rfl⟩) hs he rfl rfl

/-- The key is loaded from a stream that has ended (R171). -/
theorem Inv.loadKey_of_eosSeen {s : State} (hs : s.status = 0x00) (he : s.eosSeen = true) : Inv s.loadKey :=
  .of_done (by simp [he]) (by simp) hs

/-- A block is complete (R166). -/
theorem Inv.startBlk {s : State} (hf : s.fst = .encrypting) (hk : s.keyValid = true) (hs : s.status = 0x00)
    (h1 : 1 ≤ s.cnt.toNat) (h16 : s.cnt.toNat ≤ 16) : Inv s.startBlk :=
  .of_executing hf rfl hk hs h1 h16 (by simp) (by simp) (by simp)

/-- What the operation at `upc` makes of a state that meets the invariants: the schedule at 0, the next matrix of the cipher up to
41, the ciphertext at 42 (R144). -/
theorem Inv.execMicro_fetched {s t : State} {w : Byte} (h : Inv s) (hp : s.ph = .exec) (hw : fetchWord s = some w)
    (hm : execMicro (decode w) s = .next t) :
    (s.upc = 0 ∧ t = (s.writeXk (expand s.key)).advance) ∨
    (1 ≤ s.upc.toNat ∧ s.upc.toNat ≤ 41 ∧ t = s.stepMatrix (matrixAt s.ibuf s.key (s.upc.toNat + 1))) ∨
    (s.upc = 42 ∧ t = ({ s with obuf := encryptBlock s.ibuf s.key } : State).advance) := by
  obtain ⟨hf, -, -, hu⟩ := h.r29.executing hp
  obtain ⟨d0, d1, -, -, -, -, d42⟩ := decode_rom_ends
  rw [fetchWord_rom s (Nat.lt_succ_of_le hu)] at hw
  cases hw
  obtain h0 | h1 | ⟨h2, h41⟩ | h42 :
      s.upc.toNat = 0 ∨ s.upc.toNat = 1 ∨ (2 ≤ s.upc.toNat ∧ s.upc.toNat ≤ 41) ∨ s.upc.toNat = 42 := by omega
  · rw [h0, d0, execMicro, execKexpand, if_pos (h.r29.encrypting hf).1] at hm
    cases hm
    exact .inl ⟨BitVec.eq_of_toNat_eq h0, rfl⟩
  · rw [h1, d1] at hm
    cases hm
    exact .inr (.inl ⟨by omega, by omega, by rw [h1, matrixAt_le_two (by omega)]⟩)
  · rw [execMicro_rom (h.schedule hp (by omega)) h2 h41 (h.matrix hp h2)] at hm
    cases hm
    exact .inr (.inl ⟨by omega, h41, rfl⟩)
  · rw [h42, d42] at hm
    cases hm
    refine .inr (.inr ⟨BitVec.eq_of_toNat_eq h42, ?_⟩)
    rw [h.matrix hp (by omega), h42, fromState_matrixAt_end _ _ (by omega)]

/-- A micro-operation before the last (R149). -/
theorem Inv.micro {s t : State} {w : Byte} (h : Inv s) (hf : s.fst = .encrypting) (hp : s.ph = .exec)
    (hw : fetchWord s = some w) (hm : execMicro (decode w) s = .next t) (hu : t.upc ≠ 43) : Inv t := by
  obtain ⟨hk, hs⟩ := h.r29.encrypting hf
  obtain ⟨-, h1, h16, -⟩ := h.r29.executing hp
  obtain ⟨h0, rfl⟩ | ⟨hl, hg, rfl⟩ | ⟨h42, rfl⟩ := h.execMicro_fetched hp hw hm
  · apply Inv.of_executing <;> simp [hf, hp, hk, hs, h1, h16, h0]
  · have hupc : (s.upc + 1).toNat = s.upc.toNat + 1 := by bv_omega
    refine .of_executing hf hp hk hs h1 h16 ?_ (fun _ => h.schedule hp hl) (fun _ => ?_)
    · rw [State.stepMatrix_upc, hupc]
      omega
    · simp only [State.stepMatrix_st, State.stepMatrix_ibuf, State.stepMatrix_key, State.stepMatrix_upc, hupc]
  · simp [h42] at hu

/-- The last micro-operation and the end of the program (R150). -/
theorem Inv.lastMicro {s t : State} {w : Byte} (h : Inv s) (hf : s.fst = .encrypting) (hp : s.ph = .exec)
    (hw : fetchWord s = some w) (hm : execMicro (decode w) s = .next t) (hu : t.upc = 43) : Inv t.endProgram := by
  obtain ⟨hk, hs⟩ := h.r29.encrypting hf
  obtain ⟨h0, rfl⟩ | ⟨hl, hg, rfl⟩ | ⟨h42, rfl⟩ := h.execMicro_fetched hp hw hm
  · simp [h0] at hu
  · rw [State.stepMatrix_upc] at hu
    bv_omega
  · apply Inv.of_sending <;> simp [hf, hk, hs]

/-- A byte of the block is sent (R167). -/
theorem Inv.sendByte {s : State} (h : Inv s) (hf : s.fst = .encrypting) (hp : s.ph = .send) (hc : s.ocnt ≠ 15)
    (b : Byte) : Inv (s.sendByte b) := by
  obtain ⟨hk, hs⟩ := h.r29.encrypting hf
  obtain ⟨ho, he⟩ := h.r29.sending hp hf
  exact .of_sending hf hp hk hs (by rw [State.sendByte_ocnt]; bv_omega) he

/-- The last byte of the block is sent (R167): DONE, or the start of the next block. -/
theorem Inv.blockSent {s : State} (hf : s.fst = .encrypting) (hp : s.ph = .send) (hk : s.keyValid = true)
    (hs : s.status = 0x00) : Inv s.blockSent := by
  cases he : s.eosSeen
  · exact .of_blockStart (by simp [he]) (.inr ⟨by simp [he, hf], by simp [hk]⟩) (by simp [hs]) (by simp [he])
      (by simp [he]) (by simp [he])
  · exact .of_done (by simp [he]) (by simp [he, hp]) (by simp [hs])

/-- Every effect of an edge keeps the invariants. -/
theorem Inv.edgeEffect {p : Pins} {s t : State} (h : Inv s) (e : EdgeEffect p s t) : Inv t := by
  cases e with
  | reset => exact .takeReset s
  | wait => exact h
  | byte _ hf hp hc => exact h.takeByte hf hp hc _
  | lastKeyByte _ hf hp =>
    obtain ⟨-, -, hs, he⟩ := h.r29.awaiting hf
    exact .loadKey hs he
  | lastBlockByte _ hf hp hc =>
    obtain ⟨hk, hs⟩ := h.r29.encrypting hf
    exact .startBlk hf hk hs (by simp [hc]) (by simp [hc])
  | streamEnd _ hf hp => exact .of_done rfl (by simp [hp]) (h.status_of_live hf)
  | shortKey _ hf hp => exact .loadKey_of_eosSeen (h.status_of_live (.inl hf)) rfl
  | shortBlock _ hf hp hc =>
    obtain ⟨hk, hs⟩ := h.r29.encrypting hf
    obtain ⟨h15, -, -⟩ := h.r29.receiving hp (.inr hf)
    exact .startBlk hf hk hs (by rw [State.setEosSeen_cnt]; bv_omega) (by rw [State.setEosSeen_cnt]; omega)
  | micro _ hf hp hw hm hu => exact h.micro hf hp hw hm hu
  | lastMicro _ hf hp hw hm hu => exact h.lastMicro hf hp hw hm hu
  | failed _ hf hp => exact .of_fault rfl (by simp [hp]) rfl
  | sent _ hf hp b hc => exact h.sendByte hf hp hc b
  | lastSent _ hf hp b =>
    obtain ⟨hk, hs⟩ := h.r29.encrypting hf
    exact .blockSent hf hp hk hs

/-- Settles O57: every effect of an edge keeps the invariants, and a step is an edge after its number has passed. -/
theorem stepKeepsTheInvariants : Obligations.StepKeepsTheInvariants := by
  unfold Obligations.StepKeepsTheInvariants
  exact ⟨fun s t hi h => hi.passEdge.edgeEffect (onEdge_effect (step_eq_onEdge s ▸ h)),
    fun p s t hi h => hi.edgeEffect (onEdge_effect h)⟩

/-! ## The reset state -/

/-- The reset state is the start of the key block. -/
theorem Inv.reset : Inv State.reset :=
  .of_blockStart rfl (.inl ⟨rfl, rfl⟩) rfl rfl rfl rfl

/-- A stream of no bytes, filled up with 0x00, is blocks of zeros (R175). -/
@[simp] theorem streamBlock_nil (j : Nat) : streamBlock [] j = zeroBlock := by
  ext1 i hi
  simp [streamBlock, zeroBlock]

/-- Before any byte is taken or written the streams agree. -/
theorem StreamInv.reset : StreamInv State.reset where
  inv := .reset
  awaiting _ := ⟨rfl, (streamBlock_nil 0).symm, rfl⟩
  blocks h := nomatch h
  whole h := nomatch h
  before h := nomatch h
  during h := nomatch h
  finished h := nomatch h
  failed h := nomatch h

/-- Settles O56: `State.reset` is the start of the key block, with both streams empty. -/
theorem resetMeetsTheInvariants : Obligations.ResetMeetsTheInvariants := by
  unfold Obligations.ResetMeetsTheInvariants
  exact ⟨.reset, .reset⟩

end Sys2Proof.Machine
end

section
/-! PROOFS. The pins and the status word (10_state.md R26, R31, R32). -/

namespace Sys2Proof.Machine

/-- The low byte of the status word (R26). -/
theorem statusWord_low (s : State) : s.statusWord.extractLsb' 0 8 = s.status :=
  BitVec.extractLsb'_append_eq_right

/-- The two bits above it (R26). -/
theorem statusWord_high (s : State) : s.statusWord.extractLsb' 8 2 = s.fst.code :=
  BitVec.extractLsb'_append_eq_left

/-- Pin `in_ready` (R31). -/
theorem inReady_iff (p : Pins) (s : State) :
    inReady p s = true ↔ p.rst = false ∧ (s.fst = .awaitingKey ∨ s.fst = .encrypting) ∧ s.ph = .recv := by
  simp [inReady, receiving_iff]

/-- Pin `out_valid` (R32). -/
theorem outValid_iff (p : Pins) (s : State) :
    outValid p s = true ↔ p.rst = false ∧ s.fst = .encrypting ∧ s.ph = .send := by
  simp [outValid, sending_iff]

/-- The byte on offer (R32). -/
theorem outData_of_outValid {p : Pins} {s : State} (h : outValid p s = true) : outData p s = s.obuf[s.ocnt.toNat]? :=
  if_pos h

/-- Settles O47, pin by pin; the handshakes exclude each other by their phases. -/
theorem handshakePinsAndStatusWord : Obligations.HandshakePinsAndStatusWord := by
  unfold Obligations.HandshakePinsAndStatusWord
  intro p s
  refine ⟨inReady_iff p s, outValid_iff p s, ?_, fun ho hv => ?_, statusWord_low s, ?_, ?_, ?_, ?_⟩
  · rw [inReady_iff, outValid_iff]
    rintro ⟨⟨-, -, hrecv⟩, -, -, hsend⟩
    cases hrecv.symm.trans hsend
  · rw [outData_of_outValid hv, Vector.getElem?_eq_getElem]
  all_goals
    intro hf
    rw [statusWord_high, hf]
    rfl

end Sys2Proof.Machine
end

section
/-! SUPPORT. Everything an instruction that answers a next state can make of the state, in one list of cases. -/

namespace Sys2Proof.Machine

/-! ## The data path -/

/-- What class U, the pseudo-operations, USTEP and class F have in common: the flags, KEY, `status` and the model's counters
stay, and XK stays or, where KEXPAND is among what is run, becomes the expansion of a valid KEY. -/
structure DataStep (kexpand : Prop) (s t : State) : Prop where
  fst : t.fst = s.fst
  eosSeen : t.eosSeen = s.eosSeen
  keyValid : t.keyValid = s.keyValid
  key : t.key = s.key
  status : t.status = s.status
  edge : t.edge = s.edge
  freeCtr : t.freeCtr = s.freeCtr
  xk : t.xk = s.xk ∨ kexpand ∧ s.keyValid = true ∧ t.xk = expand s.key

namespace DataStep

variable {k k' : Prop} {s t u : State}

protected theorem refl (k : Prop) (s : State) : DataStep k s s :=
  ⟨rfl, rfl, rfl, rfl, rfl, rfl, rfl, .inl rfl⟩

/-- What holds of fewer reasons to write XK holds of more. -/
theorem mono (hk : k → k') (h : DataStep k s t) : DataStep k' s t :=
  { h with xk := h.xk.imp_right (And.imp_left hk) }

protected theorem trans (h : DataStep k s t) (h' : DataStep k t u) : DataStep k s u where
  fst := h'.fst.trans h.fst
  eosSeen := h'.eosSeen.trans h.eosSeen
  keyValid := h'.keyValid.trans h.keyValid
  key := h'.key.trans h.key
  status := h'.status.trans h.status
  edge := h'.edge.trans h.edge
  freeCtr := h'.freeCtr.trans h.freeCtr
  xk := by
    obtain hx | ⟨hk, hv, hx⟩ := h'.xk
    · rw [hx]
      exact h.xk
    · exact .inr ⟨hk, h.keyValid ▸ hv, h.key ▸ hx⟩

theorem drive (k : Prop) (s : State) (v : UnitOutput) : DataStep k s (s.drive v) :=
  ⟨rfl, rfl, rfl, rfl, rfl, rfl, rfl, .inl rfl⟩

theorem endProgram (k : Prop) (s : State) : DataStep k s s.endProgram :=
  ⟨rfl, rfl, rfl, rfl, rfl, rfl, rfl, .inl rfl⟩

theorem advance (k : Prop) (s : State) : DataStep k s s.advance :=
  ⟨rfl, rfl, rfl, rfl, rfl, rfl, rfl, .inl rfl⟩

theorem writeObuf (k : Prop) (s : State) (b : Block) : DataStep k s { s with obuf := b } :=
  ⟨rfl, rfl, rfl, rfl, rfl, rfl, rfl, .inl rfl⟩

theorem writeXk {v : ExpandedKey} (hk : k) (hv : s.keyValid = true) (hx : v = expand s.key) :
    DataStep k s (s.writeXk v) :=
  ⟨rfl, rfl, rfl, rfl, rfl, rfl, rfl, .inr ⟨hk, hv, hx⟩⟩

/-- A micro-operation; KEXPAND alone writes XK (R105). -/
theorem of_execMicro {i : Instr} (h : execMicro i s = .next t) : DataStep (i = .kexpand) s t := by
  obtain ⟨rfl, hv, rfl⟩ | ⟨-, rfl⟩ | ⟨-, -, m, rfl⟩ := execMicro_next h
  · exact (writeXk rfl hv rfl).trans (.advance _ _)
  · exact (writeObuf _ s _).trans (.advance _ _)
  · exact ⟨rfl, rfl, rfl, rfl, rfl, rfl, rfl, .inl rfl⟩

/-- Micro-operations one after another. -/
theorem of_runMicro {l : List Instr} (h : runMicro l s = .next t) : DataStep (.kexpand ∈ l) s t := by
  induction l generalizing s with
  | nil =>
    cases h
    exact .refl _ _
  | cons i l ih =>
    simp only [runMicro] at h
    split at h
    next u hu =>
      exact ((of_execMicro hu).mono fun hi => by simp [hi]).trans ((ih h).mono (List.mem_cons_of_mem i))
    next => cases h
    next => cases h

/-- The end of the program, where it comes, changes `ph` and `ocnt` only. -/
theorem of_finishAt43 {r : Result} (hr : ∀ u, r = .next u → DataStep k s u) (h : finishAt43 r = .next t) :
    DataStep k s t := by
  cases r with
  | next u =>
    by_cases hu : u.upc = 43
    · rw [finishAt43_of_eq hu] at h
      cases h
      exact (hr u rfl).trans (.endProgram k u)
    · rw [finishAt43_of_ne hu] at h
      cases h
      exact hr _ rfl
  | fault f => cases h
  | refused r => cases h

/-- USTEP: a micro-operation, any of them, and perhaps the end of the program (R149). -/
theorem of_execUstep (h : execUstep s = .next t) : DataStep True s t := by
  obtain ⟨-, rfl⟩ | ⟨-, _, _, -, hm, ⟨-, rfl⟩ | ⟨-, rfl⟩⟩ := execUstep_next h
  · exact .refl _ _
  · exact ((of_execMicro hm).mono fun _ => trivial).trans (.endProgram _ _)
  · exact (of_execMicro hm).mono fun _ => trivial

end DataStep

/-! ## Every instruction -/

/-- What an instruction can make of `s`: nothing beyond the data path, or an operation of the framer, with what the instruction
must be or the state must have for it. -/
inductive Effect (s : State) : Instr → State → Prop where
  | data {i : Instr} {t : State} (h : DataStep (i = .kexpand ∨ i = .encrypt ∨ i = .ustep) s t) : Effect s i t
  | recvInit {i : Instr} : Effect s i s.recvInit
  | loadKey {i : Instr} (hf : s.fst = .awaitingKey) : Effect s i s.loadKey
  | startBlk {i : Instr} : Effect s i s.startBlk
  | byte {i : Instr} (b : Byte) : Effect s i (s.takeByte b)
  | lastKeyByte {i : Instr} (b : Byte) (hf : s.fst = .awaitingKey) : Effect s i (s.takeByte b).loadKey
  | lastBlockByte {i : Instr} (b : Byte) : Effect s i (s.takeByte b).startBlk
  | streamEnd {i : Instr} : Effect s i { s with fst := .done }
  | shortKey (hf : s.fst = .awaitingKey) (hc : s.cnt ≠ 0) : Effect s .rxEos s.setEosSeen.loadKey
  | shortBlock (hc : s.cnt ≠ 0) : Effect s .rxEos s.setEosSeen.startBlk
  | sent {i : Instr} (b : Byte) : Effect s i (s.sendByte b)
  | lastSent {i : Instr} (b : Byte) : Effect s i (s.sendByte b).blockSent
  | failed {i : Instr} (n : BitVec 5) : Effect s i (s.raiseOutputWriteFailure n)
  | reset : Effect s .reset s.takeReset

namespace Effect

variable {i : Instr} {s t : State}

/-- An instruction that leaves the state as it is. -/
theorem wait (i : Instr) (s : State) : Effect s i s := .data (.refl _ s)

/-- A function unit (R60). -/
theorem unit (i : Instr) (s : State) (v : UnitOutput) : Effect s i (s.drive v) := .data (.drive _ s v)

/-- A pseudo-operation without KEXPAND (R69). -/
theorem of_runMicro {l : List Instr} (hl : .kexpand ∉ l) (h : runMicro l s = .next t) : Effect s i t :=
  .data ((DataStep.of_runMicro h).mono fun hk => absurd hk hl)

theorem of_rxByte {b : Byte} (h : execRxByte b s = .next t) : Effect s (.rxByte b) t := by
  obtain ⟨-, rfl⟩ | ⟨-, -, rfl⟩ | ⟨-, -, hf, rfl⟩ | ⟨-, -, -, rfl⟩ := execRxByte_next h
  · exact .wait _ _
  · exact .byte b
  · exact .lastKeyByte b hf
  · exact .lastBlockByte b

theorem of_rxEos (h : execRxEos s = .next t) : Effect s .rxEos t := by
  obtain ⟨-, rfl⟩ | ⟨-, -, rfl⟩ | ⟨-, hc, hf, rfl⟩ | ⟨-, hc, -, rfl⟩ := execRxEos_next h
  · exact .wait _ _
  · exact .streamEnd
  · exact .shortKey hf hc
  · exact .shortBlock hc

theorem of_txByteOk (h : execTxByteOk s = .next t) : Effect s .txByteOk t := by
  obtain ⟨-, rfl⟩ | ⟨-, -, ⟨-, rfl⟩ | ⟨-, rfl⟩⟩ := execTxByteOk_next h
  · exact .wait _ _
  · exact .sent _
  · exact .lastSent _

theorem of_blockComplete (h : blockComplete s = .next t) : Effect s i t := by
  obtain ⟨hf, rfl⟩ | ⟨-, rfl⟩ := blockComplete_next h
  · exact .loadKey hf
  · exact .startBlk

end Effect

/-- ROUND r expands to operations other than KEXPAND (R69). -/
theorem kexpand_notMem_expansion_round {r : Nat} (h1 : 1 ≤ r) (h9 : r ≤ 9) : .kexpand ∉ expansion (.round r) := by
  interval_cases r <;> decide

/-- The list of cases is complete. -/
theorem exec_effect {i : Instr} {s t : State} (h : exec i s = .next t) : Effect s i t := by
  by_cases hw : (encodeWord i).isSome = true
  · rw [← execMicro_eq_exec i hw] at h
    exact .data ((DataStep.of_execMicro h).mono .inl)
  cases i with
  | initRound => exact .of_runMicro (by decide) h
  | round r =>
    simp only [exec, execRound] at h
    split at h
    next hr => exact .of_runMicro (kexpand_notMem_expansion_round hr.1 hr.2) h
    next => cases h
  | finalRound => exact .of_runMicro (by decide) h
  | encrypt =>
    exact .data (.of_finishAt43 (fun u hu => (DataStep.of_runMicro hu).mono fun _ => .inr (.inl rfl)) h)
  | rconlk | loglk | ksCore | kexpWord | rkSel =>
    simp only [exec, execRconlk, execLoglk, execKsCore, execKexpWord, execRkSel] at h
    split at h <;> cases h
    exact .unit _ _ _
  | sboxlk | aloglk | gfmul | rotWord | subWord | expand | toState | fromState | subBytesF | shiftRowsF | mixCol1
  | mixColumnsF | addRoundKeyF | roundF | encryptBlock =>
    cases h
    exact .unit _ _ _
  | rxByte b => exact .of_rxByte h
  | rxEos => exact .of_rxEos h
  | ustep => exact .data ((DataStep.of_execUstep h).mono fun _ => .inr (.inr rfl))
  | txByteOk => exact .of_txByteOk h
  | txByteFail =>
    simp only [exec, execTxByteFail] at h
    split at h <;> cases h
    · exact .failed _
    · exact .wait _ _
  | recvInit =>
    cases h
    exact .recvInit
  | blockComplete => exact .of_blockComplete h
  | loadKey =>
    simp only [exec, execLoadKey] at h
    split at h <;> cases h
    exact .loadKey ‹_›
  | startBlk =>
    simp only [exec, execStartBlk] at h
    split at h <;> cases h
    exact .startBlk
  | endProgram =>
    simp only [exec, execEndProgram] at h
    split at h <;> cases h
    exact .data (.endProgram _ s)
  | reset =>
    cases h
    exact .reset
  | raiseOutputWriteFailure n =>
    cases h
    exact .failed n
  | _ => exact absurd rfl hw

end Sys2Proof.Machine
end

section
/-! PROOFS. What may write KEY, the flags, `status` and XK. -/

namespace Sys2Proof.Machine

variable {i : Instr} {p : Pins} {s t : State}

/-! ## Instructions -/

/-- No instruction but RESET clears `eos_seen` or `key_valid` (R14, R15). -/
theorem Effect.flags_kept (e : Effect s i t) (hi : i ≠ .reset) :
    (s.eosSeen = true → t.eosSeen = true) ∧ (s.keyValid = true → t.keyValid = true) := by
  cases e with
  | data d => exact ⟨d.eosSeen.trans, d.keyValid.trans⟩
  | reset => exact absurd rfl hi
  | loadKey | lastKeyByte => exact ⟨id, fun _ => rfl⟩
  | shortKey => exact ⟨fun _ => rfl, fun _ => rfl⟩
  | shortBlock => exact ⟨fun _ => rfl, id⟩
  | lastSent => simp
  | _ => exact ⟨id, id⟩

/-- `eos_seen` is set by RXEOS inside a block only (R14). -/
theorem Effect.eosSeen_eq (e : Effect s i t) (hi : i ≠ .reset) (h : ¬ (i = .rxEos ∧ s.cnt ≠ 0)) :
    t.eosSeen = s.eosSeen := by
  cases e with
  | data d => exact d.eosSeen
  | reset => exact absurd rfl hi
  | shortKey _ hc => exact absurd ⟨rfl, hc⟩ h
  | shortBlock hc => exact absurd ⟨rfl, hc⟩ h
  | lastSent => simp
  | _ => rfl

/-- KEY stays, or is loaded in AWAITING_KEY, which that leaves (R17). -/
theorem Effect.key_eq_or_loaded (e : Effect s i t) (hi : i ≠ .reset) :
    t.key = s.key ∨ s.fst = .awaitingKey ∧ t.fst ≠ .awaitingKey ∧ t.keyValid = true := by
  cases e with
  | data d => exact .inl d.key
  | reset => exact absurd rfl hi
  | loadKey hf | lastKeyByte _ hf | shortKey hf =>
    refine .inr ⟨hf, ?_, rfl⟩
    rw [State.loadKey_fst]
    split <;> simp
  | lastSent => simp
  | _ => exact .inl rfl

/-- XK stays, becomes the expansion of a valid KEY, or is reset (R27, R48). -/
theorem Effect.xk_eq_or_written (e : Effect s i t) :
    t.xk = s.xk ∨ ((i = .kexpand ∨ i = .encrypt ∨ i = .ustep) ∧ s.keyValid = true ∧ t.xk = expand s.key) ∨
      i = .reset := by
  cases e with
  | data d => exact d.xk.imp_right .inl
  | reset => exact .inr (.inr rfl)
  | lastSent => simp
  | _ => exact .inl rfl

/-- No instruction changes the number of the edge, and none but RESET draws a free byte. -/
theorem Effect.counters (e : Effect s i t) : t.edge = s.edge ∧ (i ≠ .reset → t.freeCtr = s.freeCtr) := by
  cases e with
  | data d => exact ⟨d.edge, fun _ => d.freeCtr⟩
  | reset => exact ⟨rfl, absurd rfl⟩
  | lastSent => simp
  | _ => exact ⟨rfl, fun _ => rfl⟩

/-- Settles O53: the ROMs are no state, and XK follows the list of effects. -/
theorem onlyKexpandWritesAnAddressSpace : Obligations.OnlyKexpandWritesAnAddressSpace := by
  unfold Obligations.OnlyKexpandWritesAnAddressSpace
  intro i s t h
  refine ⟨fun sp a hsp => memRead_rom s t hsp a, ?_⟩
  obtain hs | ⟨hw, hv⟩ | hr := (exec_effect h).xk_eq_or_written
  · exact ⟨absurd hs, fun _ => absurd hs⟩
  · exact ⟨fun _ => hw.imp_right (.imp_right .inl), fun _ _ => hv⟩
  · exact ⟨fun _ => .inr (.inr (.inr hr)), absurd hr⟩

/-! ## Edges -/

/-- Without `rst` no edge selects RESET (R71). -/
theorem selectEvent_ne_reset (hr : p.rst = false) (s : State) : selectEvent p s ≠ some .reset := by
  simp only [selectEvent, hr, Bool.false_eq_true, ↓reduceIte]
  split_ifs <;> simp

/-- No edge but reset clears `eos_seen` or `key_valid` (R14, R15). -/
theorem onEdge_flags_kept (hr : p.rst = false) (h : onEdge p s = .next t) :
    (s.eosSeen = true → t.eosSeen = true) ∧ (s.keyValid = true → t.keyValid = true) := by
  cases hi : selectEvent p s with
  | none =>
    rw [onEdge_of_wait hi] at h
    cases h
    exact ⟨id, id⟩
  | some i =>
    rw [onEdge_of_event hi] at h
    exact (exec_effect h).flags_kept fun e => selectEvent_ne_reset hr s (e ▸ hi)

/-- Outside AWAITING_KEY an edge leaves KEY and `key_valid`, and does not come back there (R176, R242). -/
theorem EdgeEffect.key_kept (e : EdgeEffect p s t) (hr : p.rst = false) (hf : s.fst ≠ .awaitingKey) :
    t.key = s.key ∧ t.keyValid = s.keyValid ∧ t.fst ≠ .awaitingKey := by
  cases e with
  | reset hr' => cases hr.symm.trans hr'
  | lastKeyByte _ hf' | shortKey _ hf' => exact absurd hf' hf
  | micro _ _ _ _ hm | lastMicro _ _ _ _ hm =>
    have d := DataStep.of_execMicro hm
    exact ⟨d.key, d.keyValid, d.fst ▸ hf⟩
  | streamEnd | failed => exact ⟨rfl, rfl, by simp⟩
  | lastSent =>
    refine ⟨by simp, by simp, ?_⟩
    rw [State.blockSent_fst]
    split
    · simp
    · exact hf
  | _ => exact ⟨rfl, rfl, hf⟩

/-- From AWAITING_KEY an edge stays and leaves KEY and `key_valid`, or makes the block received the key, or ends the stream
(R17, R165, R170, R171). -/
theorem EdgeEffect.from_awaitingKey (e : EdgeEffect p s t) (hr : p.rst = false) (hf : s.fst = .awaitingKey) :
    (t.fst = .awaitingKey ∧ t.key = s.key ∧ t.keyValid = s.keyValid) ∨
    (t.keyValid = true ∧ t.fst ≠ .awaitingKey ∧
      ∀ i : Fin 16, t.key[i] = if i.val = s.cnt.toNat then p.inData else s.ibuf[i]) ∨
    t.fst = .done := by
  cases e with
  | reset hr' => cases hr.symm.trans hr'
  | wait | byte => exact .inl ⟨hf, rfl, rfl⟩
  | lastKeyByte =>
    refine .inr (.inl ⟨rfl, ?_, fun i => ?_⟩)
    · rw [State.loadKey_fst]
      split <;> simp
    · simp only [State.loadKey_key, State.takeByte_ibuf, Fin.getElem_fin, Vector.getElem_setIfInBounds, eq_comm]
  | streamEnd | shortKey => exact .inr (.inr rfl)
  | lastBlockByte _ hf' | shortBlock _ hf' | micro _ hf' | lastMicro _ hf' | failed _ hf' | sent _ hf' | lastSent _ hf' =>
    cases hf.symm.trans hf'

/-- Settles O49: KEY by the effects of an edge in and outside AWAITING_KEY, the flags by those of the instructions. -/
theorem keyIsWrittenOnce : Obligations.KeyIsWrittenOnce := by
  unfold Obligations.KeyIsWrittenOnce
  refine ⟨fun p s t hr h => ?_, fun i s t hi h => ?_⟩
  · have e := onEdge_effect h
    obtain ⟨heos, hvalid⟩ := onEdge_flags_kept hr h
    refine ⟨e.key_kept hr, fun hk => ?_, fun hs ht => ?_, fun hs ht => ?_, heos, hvalid⟩
    · by_contra hf
      obtain ⟨hkey, hval, -⟩ := e.key_kept hr hf
      exact hk.elim (absurd hkey) (absurd hval)
    · obtain ⟨-, hkey, hval⟩ | ⟨-, hne, -⟩ | hd := e.from_awaitingKey hr hs
      · exact ⟨hkey, hval⟩
      · exact absurd ht hne
      · cases ht.symm.trans hd
    · obtain ⟨ha, -, -⟩ | ⟨hval, -, hkey⟩ | hd := e.from_awaitingKey hr hs
      · cases ht.symm.trans ha
      · exact ⟨hval, hkey⟩
      · cases ht.symm.trans hd
  · have e := exec_effect h
    obtain ⟨heos, hvalid⟩ := e.flags_kept hi
    exact ⟨heos, hvalid, fun hne => by_contra fun hc => hne (e.eosSeen_eq hi hc),
      (e.key_eq_or_loaded hi).resolve_left⟩

/-- An edge leaves `status`, but for reset and the exception (R24, R193). -/
theorem EdgeEffect.status_eq_or_written (e : EdgeEffect p s t) :
    t.status = s.status ∨ (p.rst = true ∧ t = s.takeReset) ∨
      (p.rst = false ∧ s.fst = .encrypting ∧ s.ph = .send ∧ p.outErr = true ∧ t = s.raiseOutputWriteFailure s.ocnt) := by
  cases e with
  | reset hr => exact .inr (.inl ⟨hr, rfl⟩)
  | failed hr hf hp he => exact .inr (.inr ⟨hr, hf, hp, he, rfl⟩)
  | micro _ _ _ _ hm | lastMicro _ _ _ _ hm => exact .inl (DataStep.of_execMicro hm).status
  | lastSent => simp
  | _ => exact .inl rfl

/-- Settles O50: of all the effects of an edge only reset and the exception write `status`. -/
theorem statusIsWrittenByTheExceptionOnly : Obligations.StatusIsWrittenByTheExceptionOnly := by
  unfold Obligations.StatusIsWrittenByTheExceptionOnly
  intro p s t h hne
  obtain hs | ⟨hr, rfl⟩ | ⟨hr, hf, hp, he, rfl⟩ := (onEdge_effect h).status_eq_or_written
  · exact absurd hs hne
  · exact .inl ⟨hr, rfl, rfl⟩
  · exact .inr ⟨hr, hf, hp, he, rfl, rfl⟩

end Sys2Proof.Machine
end

section
/-! PROOFS. No edge and no instruction reads the number of the edge, so a run is its edges one after the other (10_state.md R34). -/

namespace Sys2Proof.Machine

/-- The same state before the edge numbered `n`. -/
def State.atEdge (n : Nat) (s : State) : State := { s with edge := n }

/-- The same answer, its next state before the edge numbered `n`. -/
def resultAtEdge (n : Nat) : Result → Result
  | .next t => .next (t.atEdge n)
  | .fault f => .fault f
  | .refused r => .refused r

variable (n : Nat) (s : State)

/-- Of two numbers the last one counts. -/
@[simp] theorem resultAtEdge_resultAtEdge (m : Nat) (r : Result) :
    resultAtEdge n (resultAtEdge m r) = resultAtEdge n r := by
  cases r <;> rfl

/-- A choice between images is the image of the choice. -/
theorem ite_eq_apply {α β : Type} (f : α → β) {c : Prop} [Decidable c] {a b : α} {a' b' : β} (ha : a' = f a)
    (hb : b' = f b) : (if c then a' else b') = f (if c then a else b) := by
  rw [ha, hb, apply_ite f]

/-! ## Shared operations -/

theorem execMicro_atEdge (i : Instr) : execMicro i (s.atEdge n) = resultAtEdge n (execMicro i s) := by
  cases i with
  | kexpand => exact ite_eq_apply (resultAtEdge n) rfl rfl
  | _ => rfl

theorem runMicro_atEdge (l : List Instr) : runMicro l (s.atEdge n) = resultAtEdge n (runMicro l s) := by
  induction l generalizing s with
  | nil => rfl
  | cons i l ih =>
    simp only [runMicro, execMicro_atEdge]
    cases execMicro i s with
    | next t => exact ih t
    | fault f => rfl
    | refused r => rfl

theorem finishAt43_atEdge (r : Result) : finishAt43 (resultAtEdge n r) = resultAtEdge n (finishAt43 r) := by
  cases r with
  | next t => exact ite_eq_apply (resultAtEdge n) rfl rfl
  | fault f => rfl
  | refused r => rfl

theorem blockComplete_atEdge : blockComplete (s.atEdge n) = resultAtEdge n (blockComplete s) := by
  have hf : (s.atEdge n).fst = s.fst := rfl
  unfold blockComplete
  rw [hf]
  split <;> rfl

/-! ## The events -/

theorem execRxByte_atEdge (b : Byte) : execRxByte b (s.atEdge n) = resultAtEdge n (execRxByte b s) :=
  ite_eq_apply (resultAtEdge n)
    (ite_eq_apply (resultAtEdge n) (ite_eq_apply (resultAtEdge n) (blockComplete_atEdge n (s.takeByte b)) rfl) rfl) rfl

theorem execRxEos_atEdge : execRxEos (s.atEdge n) = resultAtEdge n (execRxEos s) :=
  ite_eq_apply (resultAtEdge n) (ite_eq_apply (resultAtEdge n) rfl (blockComplete_atEdge n s.setEosSeen)) rfl

theorem execUstep_atEdge : execUstep (s.atEdge n) = resultAtEdge n (execUstep s) := by
  have hw : fetchWord (s.atEdge n) = fetchWord s := rfl
  unfold execUstep
  simp only [hw, execMicro_atEdge, finishAt43_atEdge]
  refine ite_eq_apply (resultAtEdge n) ?_ rfl
  cases fetchWord s <;> rfl

theorem State.blockSent_atEdge : (s.atEdge n).blockSent = s.blockSent.atEdge n :=
  ite_eq_apply (State.atEdge n) rfl rfl

theorem execTxByteOk_atEdge : execTxByteOk (s.atEdge n) = resultAtEdge n (execTxByteOk s) := by
  refine ite_eq_apply (resultAtEdge n) ?_ rfl
  have hb : (s.atEdge n).obuf[(s.atEdge n).ocnt.toNat]? = s.obuf[s.ocnt.toNat]? := rfl
  rw [hb]
  cases s.obuf[s.ocnt.toNat]? with
  | some b =>
    exact congrArg Host.Outcome.next (ite_eq_apply (State.atEdge n) (State.blockSent_atEdge n (s.sendByte b)) rfl)
  | none => rfl

/-! ## Every instruction, edge and sequence of edges -/

/-- No instruction reads the number of the edge. -/
theorem exec_atEdge (i : Instr) : exec i (s.atEdge n) = resultAtEdge n (exec i s) := by
  by_cases hw : (encodeWord i).isSome = true
  · rw [← execMicro_eq_exec i hw, ← execMicro_eq_exec i hw, execMicro_atEdge]
  cases i with
  | initRound => exact runMicro_atEdge n s _
  | round r => exact ite_eq_apply (resultAtEdge n) (runMicro_atEdge n s _) rfl
  | finalRound => exact runMicro_atEdge n s _
  | encrypt => exact (congrArg finishAt43 (runMicro_atEdge n s _)).trans (finishAt43_atEdge n _)
  | rconlk | loglk | ksCore | kexpWord | rkSel => exact ite_eq_apply (resultAtEdge n) rfl rfl
  | sboxlk | aloglk | gfmul | rotWord | subWord | expand | toState | fromState | subBytesF | shiftRowsF | mixCol1
  | mixColumnsF | addRoundKeyF | roundF | encryptBlock => rfl
  | rxByte b => exact execRxByte_atEdge n s b
  | rxEos => exact execRxEos_atEdge n s
  | ustep => exact execUstep_atEdge n s
  | txByteOk => exact execTxByteOk_atEdge n s
  | blockComplete => exact blockComplete_atEdge n s
  | txByteFail | loadKey | startBlk | endProgram => exact ite_eq_apply (resultAtEdge n) rfl rfl
  | recvInit | reset | raiseOutputWriteFailure => rfl
  | _ => exact absurd rfl hw

/-- No edge reads its number. -/
theorem onEdge_atEdge (p : Pins) : onEdge p (s.atEdge n) = resultAtEdge n (onEdge p s) := by
  cases hi : selectEvent p s with
  | none => exact (onEdge_of_wait (s := s.atEdge n) hi).trans (by rw [onEdge_of_wait hi]; rfl)
  | some i => rw [onEdge_of_event hi, onEdge_of_event (s := s.atEdge n) hi, exec_atEdge]

/-- A sequence of edges on given pins does not read their numbers. -/
theorem onEdges_atEdge (l : List Pins) : onEdges l (s.atEdge n) = resultAtEdge n (onEdges l s) := by
  induction l generalizing s with
  | nil => rfl
  | cons p l ih =>
    simp only [onEdges, onEdge_atEdge]
    cases onEdge p s with
    | next t => exact ih t
    | fault f => rfl
    | refused r => rfl

/-! ## Steps and runs -/

/-- A step is the edge on the pins of its number, and then the next number. -/
theorem step_eq_resultAtEdge : step s = resultAtEdge (s.edge + 1) (onEdge (pinsAt s.edge) s) :=
  onEdge_atEdge (s.edge + 1) s s.pins

/-- A step moves on to the next edge. -/
theorem step_edge {s t : State} (h : step s = .next t) : t.edge = s.edge + 1 := by
  rw [step_eq_resultAtEdge] at h
  cases he : onEdge (pinsAt s.edge) s with
  | next u =>
    rw [he] at h
    cases h
    rfl
  | fault f => rw [he] at h; cases h
  | refused r => rw [he] at h; cases h

/-- The samples of the pins on the `k` edges from the one numbered `n` on. -/
def samplesFrom (n k : Nat) : List Pins := (List.range k).map fun j => pinsAt (n + j)

/-- The first sample and the others. -/
theorem samplesFrom_succ (k : Nat) : samplesFrom n (k + 1) = pinsAt n :: samplesFrom (n + 1) k := by
  simp [samplesFrom, List.range_succ_eq_map, Function.comp_def, Nat.add_assoc, Nat.add_comm 1]

/-- A run that a step stops. -/
theorem core_run_of_fault (k : Nat) {s : State} {f : Fault} (h : step s = .fault f) : core.run (k + 1) s = .fault f :=
  (run_succ core k s).trans (by rw [show core.step s = _ from h])

/-- A run that a step refuses. -/
theorem core_run_of_refused (k : Nat) {s : State} {r : Refusal} (h : step s = .refused r) :
    core.run (k + 1) s = .refused r :=
  (run_succ core k s).trans (by rw [show core.step s = _ from h])

/-- A run is its edges, one after the other, on their samples. -/
theorem core_run_eq_onEdges (k : Nat) :
    core.run k s = resultAtEdge (s.edge + k) (onEdges (samplesFrom s.edge k) s) := by
  induction k generalizing s with
  | zero => rfl
  | succ k ih =>
    have hstep := step_eq_resultAtEdge s
    rw [samplesFrom_succ, onEdges]
    cases he : onEdge (pinsAt s.edge) s with
    | next t =>
      rw [he] at hstep
      refine (core_run_of_step hstep).trans ((ih _).trans ?_)
      change resultAtEdge (s.edge + 1 + k) (onEdges (samplesFrom (s.edge + 1) k) (t.atEdge (s.edge + 1))) = _
      rw [onEdges_atEdge, resultAtEdge_resultAtEdge, Nat.add_assoc, Nat.add_comm 1]
    | fault f => exact core_run_of_fault k (hstep.trans (congrArg _ he))
    | refused r => exact core_run_of_refused k (hstep.trans (congrArg _ he))

/-- Settles O54: changing the number of the edge commutes with every instruction, edge and sequence of edges. -/
theorem noStepReadsAFutureEdge : Obligations.NoStepReadsAFutureEdge := by
  unfold Obligations.NoStepReadsAFutureEdge
  refine ⟨fun p s n => ?_, fun i s n => ?_, fun i s t h => (exec_effect h).counters, fun s t => step_edge,
    fun k s => ?_⟩
  · exact (onEdge_atEdge n s p).trans (by cases onEdge p s <;> rfl)
  · exact (exec_atEdge n s i).trans (by cases exec i s <;> rfl)
  · refine (core_run_eq_onEdges s k).trans ?_
    rw [samplesFrom]
    cases onEdges ((List.range k).map fun j => pinsAt (s.edge + j)) s <;> rfl

end Sys2Proof.Machine
end

section
/-! PROOFS. The memory: the ranges of the address spaces (20_memory.md R40, R41), the block and matrix mapping driven directly (R44,
R45), and the two streams over one edge (R47, R51). -/

namespace Sys2Proof.Machine

/-! ## The address spaces -/

/-- How many addresses a space has, from 0 on (R40). -/
def Space.size : Space → Nat
  | .sbox => 256
  | .rcon => 11
  | .log => 256
  | .alog => 256
  | .xk => 176
  | .mprom => Config.mpromDepth

/-- A space has its addresses and no other (R40, R41). -/
theorem memRead_isSome_iff (s : State) (sp : Space) (a : Nat) : (memRead s sp a).isSome = true ↔ a < sp.size := by
  cases sp <;> simp [memRead, Space.size]

/-- `XK` after `MemWrite`, inside its range (R47). -/
theorem memRead_writeXk_of_lt (s : State) (v : ExpandedKey) {a : Nat} (h : a < 176) :
    memRead (s.writeXk v) .xk a = some v[a] :=
  memRead_xk_of_lt (s.writeXk v) h

/-- Settles O55: each range is the size of its space; what is written to XK reads back, and the ROMs are no state. -/
theorem addressSpacesHaveTheirRanges : Obligations.AddressSpacesHaveTheirRanges := by
  unfold Obligations.AddressSpacesHaveTheirRanges
  intro s a
  have range (sp : Space) {last : Nat} (hl : sp.size = last + 1) : (memRead s sp a).isSome = true ↔ a ≤ last := by
    rw [memRead_isSome_iff, hl, Nat.lt_succ_iff]
  exact ⟨range .sbox rfl, range .rcon rfl, range .log rfl, range .alog rfl, range .xk rfl, range .mprom rfl, fun v =>
    ⟨fun h => memRead_writeXk_of_lt s v (by omega), fun _ hsp => memRead_rom s _ hsp a⟩⟩

/-! ## The block and matrix mapping -/

/-- TOSTATE shows the matrix of the block and changes nothing else (R44, R60). -/
theorem exec_toState (b : Block) (s : State) : exec (.toState b) s = .next (s.drive (.matrix (toState b))) := rfl

/-- FROMSTATE shows the block of the matrix and changes nothing else (R45, R60). -/
theorem exec_fromState (m : StateMatrix) (s : State) :
    exec (.fromState m) s = .next (s.drive (.block (fromState m))) := rfl

/-- Settles O31: the entries of both mappings, and that each undoes the other. -/
theorem blockMatrixMapping : Obligations.BlockMatrixMapping := by
  unfold Obligations.BlockMatrixMapping
  intro s b m
  refine ⟨⟨toState b, exec_toState b s, fun r c => toState_getElem b r c r.isLt c.isLt, ?_⟩,
    ⟨fromState m, exec_fromState m s, fun i => fromState_getElem m i i.isLt, ?_⟩⟩
  · rw [exec_fromState, fromState_toState, State.drive]
  · rw [exec_toState, toState_fromState, State.drive]

/-! ## The streams -/

/-- The bytes taken and the bytes written are the same in both states (R40, R47). -/
structure SameStreams (s t : State) : Prop where
  taken : t.taken = s.taken
  out : t.out = s.out

variable {s t : State}

/-- RXBYTE takes its byte, if anything, and writes nothing (R162). -/
theorem execRxByte_streams {b : Byte} (h : execRxByte b s = .next t) :
    (t.taken = s.taken ∨ t.taken = s.taken ++ [b]) ∧ t.out = s.out := by
  obtain ⟨-, rfl⟩ | ⟨-, -, rfl⟩ | ⟨-, -, -, rfl⟩ | ⟨-, -, -, rfl⟩ := execRxByte_next h
  · exact ⟨.inl rfl, rfl⟩
  all_goals exact ⟨.inr rfl, rfl⟩

/-- RXEOS takes no byte and writes none (R163). -/
theorem SameStreams.of_execRxEos (h : execRxEos s = .next t) : SameStreams s t := by
  obtain ⟨-, rfl⟩ | ⟨-, -, rfl⟩ | ⟨-, -, -, rfl⟩ | ⟨-, -, -, rfl⟩ := execRxEos_next h
  all_goals exact ⟨rfl, rfl⟩

/-- A micro-operation takes no byte and writes none (R174). -/
theorem SameStreams.of_execMicro {i : Instr} (h : execMicro i s = .next t) : SameStreams s t := by
  obtain ⟨-, -, rfl⟩ | ⟨-, rfl⟩ | ⟨-, -, _, rfl⟩ := execMicro_next h
  all_goals exact ⟨by simp, by simp⟩

/-- USTEP takes no byte and writes none, at the end of the program either (R149, R174). -/
theorem SameStreams.of_execUstep (h : execUstep s = .next t) : SameStreams s t := by
  obtain ⟨-, rfl⟩ | ⟨-, _, _, -, hm, ⟨-, rfl⟩ | ⟨-, rfl⟩⟩ := execUstep_next h
  · exact ⟨rfl, rfl⟩
  · obtain ⟨htaken, hout⟩ := SameStreams.of_execMicro hm
    exact ⟨htaken, hout⟩
  · exact .of_execMicro hm

/-- TXBYTE(ok) takes no byte and writes `OBUF[ocnt]`, if anything (R167). -/
theorem execTxByteOk_streams (h : execTxByteOk s = .next t) :
    t.taken = s.taken ∧
      (t.out = s.out ∨ some t.out = (s.obuf[s.ocnt.toNat]?).map (fun b => s.out ++ [b])) := by
  obtain ⟨-, rfl⟩ | ⟨-, hi, ⟨-, rfl⟩ | ⟨-, rfl⟩⟩ := execTxByteOk_next h
  · exact ⟨rfl, .inl rfl⟩
  all_goals
    rw [Vector.getElem?_eq_getElem hi]
    exact ⟨by simp, .inr (by simp)⟩

/-- Settles O52, event by event: RXBYTE alone takes, in RECV, and TXBYTE(ok) alone writes, in SEND. -/
theorem streamsOnlyGrow : Obligations.StreamsOnlyGrow := by
  unfold Obligations.StreamsOnlyGrow
  intro p s t h
  obtain ⟨-, rfl⟩ | ⟨-, rfl | ⟨hs, hv, h⟩ | ⟨-, -, -, h⟩ | ⟨-, h⟩ | ⟨-, -, rfl⟩ | ⟨hs, he, hr, h⟩⟩ := onEdge_next h
  · exact ⟨.inl rfl, .inl rfl⟩
  · exact ⟨.inl rfl, .inl rfl⟩
  · obtain ⟨-, hp⟩ := (receiving_iff s).1 hs
    obtain ⟨htaken, hout⟩ := execRxByte_streams h
    exact ⟨htaken.imp_right fun ht => ⟨ht, hv, hp, hout⟩, .inl hout⟩
  · obtain ⟨htaken, hout⟩ := SameStreams.of_execRxEos h
    exact ⟨.inl htaken, .inl hout⟩
  · obtain ⟨htaken, hout⟩ := SameStreams.of_execUstep h
    exact ⟨.inl htaken, .inl hout⟩
  · exact ⟨.inl rfl, .inl rfl⟩
  · obtain ⟨hf, hp⟩ := (sending_iff s).1 hs
    obtain ⟨htaken, hout⟩ := execTxByteOk_streams h
    exact ⟨.inl htaken, hout.imp_right fun ho => ⟨hf, hp, hr, he, ho⟩⟩

end Sys2Proof.Machine
end

section
/-! PROOFS. The encoding: the micro-operation word and its two fields, the decoder and the encoder, the pseudo-operations' words and the
micro-program ROM (30_encoding.md R61 to R69). -/

namespace Sys2Proof.Machine

/-! ## The decoder, word by word -/

/-- The decoder loses nothing: the word is the word of what it decodes to (R61, R63, R64). -/
theorem encodeWord_decode : ∀ w : Byte, encodeWord (decode w) = some w := by decide

/-- The decoder yields operations the spec names (R63, R64). -/
theorem decode_wellFormed : ∀ w : Byte, (decode w).wellFormed = true := by decide

/-- A word that R63 does not list is reserved (R64). -/
theorem decode_of_not_mem_legalWords : ∀ w : Byte, w ∉ legalWords → decode w = .reserved w := by decide

/-- A word that R63 lists is not reserved. -/
theorem decode_ne_reserved_of_mem_legalWords : ∀ w ∈ legalWords, decode w ≠ .reserved w := by decide

/-- A word of the opcode table decodes as the byte it is (R61). -/
theorem decodeTableWord_toNat (w : Byte) : decodeTableWord 8 w.toNat = some (decode w) := by
  simp [decodeTableWord, decodeBytes, w.isLt]

/-- Settles O1: the seventeen rows one by one, and the words outside the list. -/
theorem legalWordsDecodeToTheirRows : Obligations.LegalWordsDecodeToTheirRows := by
  unfold Obligations.LegalWordsDecodeToTheirRows
  refine ⟨rfl, rfl, rfl, rfl, rfl, rfl, rfl, rfl, rfl, rfl, rfl, rfl, rfl, rfl, rfl, rfl, rfl, ?_⟩
  exact decode_of_not_mem_legalWords

/-! ## The decoder and the encoder undo each other -/

/-- A well-formed operation that has a word is what the word decodes to (R63, R64). -/
theorem decode_of_encodeWord {i : Instr} {w : Byte} (hi : i.wellFormed = true) (hw : encodeWord i = some w) :
    decode w = i := by
  cases i
  case reserved =>
    cases hw
    exact decode_of_not_mem_legalWords w (by simpa [Instr.wellFormed] using hi)
  all_goals cases hw <;> rfl

/-- An operation that has a word expands to itself (R69 names the pseudo-operations only). -/
theorem expansion_of_encodeWord {i : Instr} {w : Byte} (hw : encodeWord i = some w) : expansion i = [i] := by
  unfold expansion
  split
  case h_5 => rw [hw]; rfl
  all_goals cases hw

/-- An operation that can stand in an expansion: well-formed, and with a word of its own (R69). -/
abbrev HasOwnWord (i : Instr) : Prop := i.wellFormed = true ∧ (encodeWord i).isSome = true

/-- What a word decodes to has a word. -/
theorem hasOwnWord_decode (w : Byte) : HasOwnWord (decode w) :=
  ⟨decode_wellFormed w, encodeWord_decode_isSome w⟩

/-- A composite round is made of operations that have a word, whatever its number (R69). -/
theorem hasOwnWord_of_mem_roundOps {r : Nat} {j : Instr} (h : j ∈ roundOps r) : HasOwnWord j := by
  simp only [roundOps, List.mem_cons, List.not_mem_nil, or_false] at h
  obtain rfl | rfl | rfl | rfl := h
  case inr.inr.inr => exact hasOwnWord_decode _
  all_goals exact ⟨rfl, rfl⟩

/-- So is the final round (R69). -/
theorem hasOwnWord_of_mem_finalRoundOps : ∀ j ∈ finalRoundOps, HasOwnWord j := by decide

/-- So is the whole of ENCRYPT (R69). -/
theorem hasOwnWord_of_mem_encryptOps : ∀ j ∈ encryptOps, HasOwnWord j := by decide

/-- What a well-formed operation expands to is made of operations that have a word (R69, R70). -/
theorem hasOwnWord_of_mem_expansion {i j : Instr} (hi : i.wellFormed = true) (hj : j ∈ expansion i) : HasOwnWord j := by
  unfold expansion at hj
  split at hj
  · cases List.mem_singleton.1 hj
    exact ⟨rfl, rfl⟩
  · exact hasOwnWord_of_mem_roundOps hj
  · exact hasOwnWord_of_mem_finalRoundOps j hj
  · exact hasOwnWord_of_mem_encryptOps j hj
  · split at hj
    · cases List.mem_singleton.1 hj
      exact ⟨hi, ‹_›⟩
    · cases hj

/-- The words of a sequence of operations that have one decode to the sequence. -/
theorem map_decode_filterMap_encodeWord :
    ∀ l : List Instr, (∀ j ∈ l, HasOwnWord j) → (l.filterMap encodeWord).map decode = l
  | [], _ => rfl
  | j :: l, h => by
    obtain ⟨⟨hj, hs⟩, hl⟩ := List.forall_mem_cons.1 h
    obtain ⟨w, hw⟩ := Option.isSome_iff_exists.1 hs
    rw [List.filterMap_cons_some hw, List.map_cons, decode_of_encodeWord hj hw, map_decode_filterMap_encodeWord l hl]

/-- Settles O3: one word for each encoded operation, the words of an expansion by induction over it, and the words one by one. -/
theorem decodeAndEncodeAgree : Obligations.DecodeAndEncodeAgree := by
  unfold Obligations.DecodeAndEncodeAgree
  refine ⟨fun i hi => ?_, fun w => ⟨decode_wellFormed w, encodeWord_decode w⟩⟩
  have hexp (j : Instr) (hj : j ∈ expansion i) : HasOwnWord j := hasOwnWord_of_mem_expansion hi hj
  refine ⟨fun w hw => ?_, map_decode_filterMap_encodeWord _ hexp, hexp⟩
  have hd : decode w = i := decode_of_encodeWord hi hw
  obtain ⟨he, -⟩ := Laws.OneWord.of_expansion (expansion_of_encodeWord hw) w hw
  exact ⟨he, hd, by rw [decodeTableWord_toNat, hd]⟩

/-! ## The fields of a reserved word -/

/-- The `op` field of the word with given fields (R61). -/
@[simp] theorem opField_append (op arg : BitVec 4) : opField (op ++ arg) = op :=
  BitVec.extractLsb'_append_eq_left

/-- The `arg` field of the word with given fields (R61). -/
@[simp] theorem argField_append (op arg : BitVec 4) : argField (op ++ arg) = arg :=
  BitVec.extractLsb'_append_eq_right

/-- An operation without an operand needs `arg` = 0 (R61, R64). -/
@[simp] theorem decodePlain_eq_none_iff (i : Instr) (arg : BitVec 4) : decodePlain i arg = none ↔ arg ≠ 0 := by
  simp [decodePlain]

/-- ADDROUNDKEY has the rounds 0 to 10 (R62, R64). -/
@[simp] theorem decodeAddRoundKey_eq_none_iff : ∀ arg : BitVec 4, decodeAddRoundKey arg = none ↔ 11 ≤ arg.toNat := by decide

/-- No row of R63 is a reserved word. -/
theorem decodeLegal_ne_reserved : ∀ w : Byte, decodeLegal w ≠ some (.reserved w) := by decide

/-- A word is reserved when R63 has no row for it (R64). -/
theorem decode_eq_reserved_iff (w : Byte) : decode w = .reserved w ↔ decodeLegal w = none := by
  cases h : decodeLegal w with
  | none => simp [decode, h]
  | some i =>
    have hi : i ≠ .reserved w := fun e => decodeLegal_ne_reserved w (e ▸ h)
    simp [decode, h, hi]

/-- R63 has no row for the fields that R64 lists. -/
theorem decodeLegal_append_eq_none_iff (op arg : BitVec 4) :
    decodeLegal (op ++ arg) = none ↔
      (op = 0 ∨ 8 ≤ op.toNat ∨ ((op = 1 ∨ op = 2 ∨ op = 4 ∨ op = 5 ∨ op = 6 ∨ op = 7) ∧ arg ≠ 0) ∨
        (op = 3 ∧ 11 ≤ arg.toNat)) := by
  unfold decodeLegal
  rw [opField_append, argField_append]
  obtain ⟨n⟩ := op
  fin_cases n <;> simp

/-- The micro-program is made of words that R63 lists (R66). -/
theorem romWord_mem_legalWords : ∀ a : Nat, a < Config.mpromDepth → romWord a ∈ legalWords := by decide

/-- Settles O2: the fields for which R63 has no row, and that the ROM holds words with one. -/
theorem reservedWordsAreRefused : Obligations.ReservedWordsAreRefused := by
  unfold Obligations.ReservedWordsAreRefused
  refine ⟨fun op arg => ?_, fun _ _ => rfl, fun s a ha => ?_⟩
  · rw [decode_eq_reserved_iff, decodeLegal_append_eq_none_iff]
  · have hd : a < Config.mpromDepth := Nat.lt_succ_of_le ha
    exact ⟨romWord a, memRead_mprom_of_lt s hd, decode_ne_reserved_of_mem_legalWords _ (romWord_mem_legalWords a hd)⟩

/-! ## The words of the pseudo-operations -/

/-- The word of ADDROUNDKEY r is 0x30 + r (R62, R63). -/
theorem encodeWord_addRoundKeyInstr {r : Nat} (h : r < 16) :
    encodeWord (addRoundKeyInstr r) = some (BitVec.ofNat 8 (0x30 + r)) := by
  have hword : wordOf 3 (BitVec.ofNat 4 r) = BitVec.ofNat 8 (0x30 + r) := by interval_cases r <;> rfl
  rw [addRoundKeyInstr, encodeWord_decode, hword]

/-- The words of ROUND r (R69). -/
theorem encode_round {r : Nat} (h : r < 16) : encode (.round r) = [0x40, 0x50, 0x60, BitVec.ofNat 8 (0x30 + r)] := by
  have hlast : [addRoundKeyInstr r].filterMap encodeWord = [BitVec.ofNat 8 (0x30 + r)] :=
    List.filterMap_cons_some (encodeWord_addRoundKeyInstr h)
  exact congrArg ([0x40, 0x50, 0x60] ++ ·) hlast

/-- The words of ENCRYPT are the micro-program (R66, R69). -/
theorem encode_encrypt : encode .encrypt = mpromImage := by decide

/-- Settles O4: the words of each, those of ENCRYPT being the ROM image. -/
theorem pseudoOperationsExpand : Obligations.PseudoOperationsExpand := by
  unfold Obligations.PseudoOperationsExpand
  rw [encode_encrypt]
  exact ⟨rfl, fun r _ h9 => encode_round (by omega), rfl, rfl, memRead_mprom, rfl, fun _ => rfl, rfl, rfl⟩

/-! ## The micro-program ROM -/

/-- The four words of round r in the ROM image (R66). -/
theorem mpromImage_round : ∀ r : Nat, r ≤ 9 → 1 ≤ r →
    mpromImage[3 + 4 * (r - 1)]? = some 0x40 ∧ mpromImage[4 + 4 * (r - 1)]? = some 0x50 ∧
    mpromImage[5 + 4 * (r - 1)]? = some 0x60 ∧ mpromImage[6 + 4 * (r - 1)]? = some (BitVec.ofNat 8 (0x30 + r)) := by decide

/-- Settles O5: the ROM reads as its image, which has 43 words. -/
theorem microProgramIsTheCipherSequence : Obligations.MicroProgramIsTheCipherSequence := by
  unfold Obligations.MicroProgramIsTheCipherSequence
  intro s
  simp only [memRead_mprom]
  exact ⟨rfl, rfl, rfl, fun r h1 h9 => mpromImage_round r h9 h1, rfl, rfl, rfl, rfl, fun a ha => List.getElem?_eq_none ha⟩

end Sys2Proof.Machine
end

section
/-! PROOFS. The selection of the event on an edge, row by row (30_encoding.md R71), and the effect of the round pseudo-operations
(30_encoding.md R69; 42_round_transformation.md R130). -/

namespace Sys2Proof.Machine

/-! ## The event of an edge -/

variable {p : Pins} {s : State}

/-- `rst` overrides every row (R220). -/
theorem selectEvent_of_rst (hr : p.rst = true) : selectEvent p s = some .reset :=
  if_pos hr

/-- While a block is received, `in_valid` wins over `in_eos` (R31). -/
theorem selectEvent_of_recv (hr : p.rst = false) (hf : s.fst = .awaitingKey ∨ s.fst = .encrypting) (hp : s.ph = .recv) :
    selectEvent p s = if p.inValid then some (.rxByte p.inData) else if p.inEos then some .rxEos else none := by
  simp [selectEvent, hr, (receiving_iff s).2 ⟨hf, hp⟩]

/-- While the micro-program runs, the pins do not matter (R149). -/
theorem selectEvent_of_exec (hr : p.rst = false) (hf : s.fst = .encrypting) (hp : s.ph = .exec) :
    selectEvent p s = some .ustep := by
  simp [selectEvent, State.receiving, State.executing, hr, hf, hp]

/-- While a block is sent, `out_err` wins over `out_ready` (R32). -/
theorem selectEvent_of_send (hr : p.rst = false) (hf : s.fst = .encrypting) (hp : s.ph = .send) :
    selectEvent p s = if p.outErr then some .txByteFail else if p.outReady then some .txByteOk else none := by
  simp [selectEvent, State.receiving, State.executing, State.sending, hr, hf, hp]

/-- In a terminal state nothing happens (R71, R196). -/
theorem selectEvent_of_terminal (hr : p.rst = false) (hf : s.fst = .done ∨ s.fst = .fault) : selectEvent p s = none := by
  obtain hf | hf := hf <;> simp [selectEvent, State.receiving, State.executing, State.sending, hr, hf]

/-- Settles O6, row by row of R71. -/
theorem eventSelectionTable : Obligations.EventSelectionTable := by
  unfold Obligations.EventSelectionTable
  refine ⟨fun p s => ⟨fun hr => onEdge_of_event (selectEvent_of_rst hr), fun hr => ⟨fun hf hp => ?_, fun hf hp => ?_,
    fun hf hp => ?_, fun hf => ?_⟩⟩, fun _ => rfl⟩
  · have row := selectEvent_of_recv hr hf hp
    refine ⟨fun hv => onEdge_of_event ?_, fun hv he => onEdge_of_event ?_, fun hv he => onEdge_of_wait ?_⟩ <;> simp [*]
  · exact onEdge_of_event (selectEvent_of_exec hr hf hp)
  · have row := selectEvent_of_send hr hf hp
    refine ⟨fun he => onEdge_of_event ?_, fun he ho => onEdge_of_event ?_, fun he ho => onEdge_of_wait ?_⟩ <;> simp [*]
  · exact onEdge_of_wait (selectEvent_of_terminal hr hf)

/-! ## The round pseudo-operations -/

/-- A composite round is ROUND_F with its round key, and four operations long (R129, R130). -/
theorem runMicro_roundOps {r : Nat} (hr : r ≤ 10) (s : State) :
    runMicro (roundOps r) s = .next { s with st := roundF s.st (rkSel s.xk r), upc := s.upc + 4 } := by
  rw [roundOps, runMicro_cons _ rfl, runMicro_cons _ rfl, runMicro_cons _ rfl,
    runMicro_cons _ (execMicro_addRoundKeyInstr r hr _), runMicro_nil]
  simp [State.stepMatrix, State.advance, roundF, BitVec.add_assoc]

/-- The final round has no MIXCOLUMNS, and is three operations long (R130, R140). -/
theorem runMicro_finalRoundOps (s : State) :
    runMicro finalRoundOps s =
      .next { s with st := addRoundKeyF (shiftRowsF (subBytesF s.st)) (rkSel s.xk 10), upc := s.upc + 3 } := by
  rw [finalRoundOps, runMicro_cons _ rfl, runMicro_cons _ rfl, runMicro_cons _ rfl, runMicro_nil]
  simp [State.stepMatrix, State.advance, BitVec.add_assoc]

/-- ROUND r in its range runs its expansion (R69). -/
theorem exec_round {r : Nat} (h1 : 1 ≤ r) (h9 : r ≤ 9) (s : State) : exec (.round r) s = runMicro (roundOps r) s :=
  if_pos ⟨h1, h9⟩

/-- Settles O17: each pseudo-operation is the sequence of its expansion. -/
theorem roundPseudoOperationsCompose : Obligations.RoundPseudoOperationsCompose := by
  unfold Obligations.RoundPseudoOperationsCompose
  intro s
  refine ⟨rfl, rfl, fun r h1 h9 => ?_, runMicro_finalRoundOps s⟩
  rw [exec_round h1 h9, runMicro_roundOps (by omega)]

end Sys2Proof.Machine
end

section
/-! SUPPORT. The arithmetic of GF(2^8) (40_tables_gf.md R89): the carry-less product is linear in its second operand, and its laws
follow from that. -/

namespace Sys2Proof.Machine

/-- What is added to both terms cancels. -/
theorem xor_xor_xor_cancel (u v c : Byte) : (u ^^^ c) ^^^ (v ^^^ c) = u ^^^ v := by
  rw [BitVec.xor_comm v, BitVec.xor_assoc, ← BitVec.xor_assoc c, BitVec.xor_self, BitVec.zero_xor]

/-- Multiplication by x is additive. -/
theorem xtime_xor (u v : Byte) : xtime (u ^^^ v) = xtime u ^^^ xtime v := by
  simp only [xtime, BitVec.getLsbD_xor, BitVec.shiftLeft_xor_distrib]
  cases u.getLsbD 7 <;> cases v.getLsbD 7
  case false.false => simp
  case true.true => exact (xor_xor_xor_cancel _ _ 0x1B).symm
  all_goals simp; ac_rfl

/-- A function on bytes that respects addition and multiplication by x. -/
structure FieldLinear (f : Byte → Byte) : Prop where
  xor : ∀ u v : Byte, f (u ^^^ v) = f u ^^^ f v
  xtime_comm : Function.Commute f xtime

namespace FieldLinear

variable {f : Byte → Byte} (h : FieldLinear f)

include h

theorem zero : f 0x00 = 0x00 := by
  have hxor : f 0x00 = f 0x00 ^^^ f 0x00 := h.xor 0x00 0x00
  rwa [BitVec.xor_self] at hxor

/-- So it goes through the loop of the carry-less product, to its second operand. -/
theorem apply_shiftXorUpTo (a b : Byte) (n : Nat) : f (shiftXorUpTo a b n) = shiftXorUpTo a (f b) n := by
  induction n with
  | zero => exact h.zero
  | succ n ih =>
    have hterm : f (xtime^[n] b) = xtime^[n] (f b) := h.xtime_comm.iterate_right n b
    rw [shiftXorUpTo, h.xor, ih, apply_ite f, hterm, h.zero, shiftXorUpTo]

theorem apply_carrylessMul (a b : Byte) : f (carrylessMul a b) = carrylessMul a (f b) :=
  h.apply_shiftXorUpTo a b 8

end FieldLinear

theorem fieldLinear_xtime : FieldLinear xtime := ⟨xtime_xor, .refl xtime⟩

/-- The loop of the carry-less product is additive in its second operand. -/
theorem shiftXorUpTo_xor (a u v : Byte) (n : Nat) :
    shiftXorUpTo a (u ^^^ v) n = shiftXorUpTo a u n ^^^ shiftXorUpTo a v n := by
  induction n with
  | zero => exact BitVec.xor_self.symm
  | succ n ih =>
    have hterm : xtime^[n] (u ^^^ v) = xtime^[n] u ^^^ xtime^[n] v := Function.Semiconj₂.iterate xtime_xor n u v
    simp only [shiftXorUpTo, ih, hterm]
    cases a.getLsbD n
    · simp
    · simp; ac_rfl

theorem fieldLinear_carrylessMul (a : Byte) : FieldLinear (carrylessMul a) where
  xor u v := shiftXorUpTo_xor a u v 8
  xtime_comm b := (fieldLinear_xtime.apply_carrylessMul a b).symm

theorem carrylessMul_zero (a : Byte) : carrylessMul a 0x00 = 0x00 := (fieldLinear_carrylessMul a).zero

theorem carrylessMul_one : ∀ a : Byte, carrylessMul a 0x01 = a := by decide

theorem carrylessMul_left_comm (a b c : Byte) : carrylessMul a (carrylessMul b c) = carrylessMul b (carrylessMul a c) :=
  (fieldLinear_carrylessMul a).apply_carrylessMul b c

theorem carrylessMul_comm (a b : Byte) : carrylessMul a b = carrylessMul b a := by
  have h := carrylessMul_left_comm a b 0x01
  rwa [carrylessMul_one, carrylessMul_one] at h

theorem zero_carrylessMul (b : Byte) : carrylessMul 0x00 b = 0x00 := by
  rw [carrylessMul_comm, carrylessMul_zero]

theorem carrylessMul_assoc (a b c : Byte) : carrylessMul (carrylessMul a b) c = carrylessMul a (carrylessMul b c) := by
  rw [carrylessMul_comm, carrylessMul_left_comm, carrylessMul_comm c b]

theorem carrylessMul_two (a : Byte) : carrylessMul a 0x02 = xtime a := by
  have htwo : (0x02 : Byte) = xtime 0x01 := rfl
  rw [htwo, ← fieldLinear_xtime.apply_carrylessMul, carrylessMul_one]

theorem carrylessMul_three (a : Byte) : carrylessMul a 0x03 = xtime a ^^^ a := by
  have hthree : (0x03 : Byte) = 0x02 ^^^ 0x01 := rfl
  rw [hthree, (fieldLinear_carrylessMul a).xor, carrylessMul_two, carrylessMul_one]

/-! ## The powers of 0x03 -/

theorem powerOfThree_succ (e : Nat) : powerOfThree (e + 1) = carrylessMul (powerOfThree e) 0x03 := by
  rw [carrylessMul_three, BitVec.xor_comm, powerOfThree]

theorem powerOfThree_add (e f : Nat) : powerOfThree (e + f) = carrylessMul (powerOfThree e) (powerOfThree f) := by
  induction f with
  | zero => exact (carrylessMul_one _).symm
  | succ f ih => rw [← Nat.add_assoc, powerOfThree_succ, ih, carrylessMul_assoc, ← powerOfThree_succ]

/-- Multiplication by 0x03 has no zero divisor. -/
theorem eq_zero_of_xor_xtime_eq_zero : ∀ v : Byte, v ^^^ xtime v = 0x00 → v = 0x00 := by decide

theorem powerOfThree_ne_zero (e : Nat) : powerOfThree e ≠ 0x00 := by
  induction e with
  | zero => decide
  | succ e ih => exact fun h => ih (eq_zero_of_xor_xtime_eq_zero _ h)

end Sys2Proof.Machine
end

section
/-! SUPPORT. What the tables hold (40_tables_gf.md R80 to R83), and GFMUL by them (R88). -/

namespace Sys2Proof.Machine

theorem memRead_sbox (s : State) (a : Byte) : memRead s .sbox a.toNat = some (sboxLookup a) := by
  simp [memRead, a.isLt]

theorem memRead_log (s : State) (a : Byte) : memRead s .log a.toNat = some (logLookup a) := by
  simp [memRead, a.isLt]

theorem memRead_alog (s : State) (e : Byte) : memRead s .alog e.toNat = some (alogLookup e) := by
  simp [memRead, e.isLt]

theorem memRead_rcon (s : State) {i : Nat} (h : i ≤ 10) : memRead s .rcon i = some (rconLookup i) := by
  have hi : i < 11 := Nat.lt_succ_of_le h
  simp [memRead, rconLookup, hi]

/-- RCON holds the powers of x from address 1 on (R81). -/
theorem rconLookup_succ : ∀ n : Nat, n ≤ 9 → rconLookup (n + 1) = xtime^[n] 0x01 := by decide

/-! ## Logarithms -/

/-- Each entry of ALOG is 0x03 times the one before it (R83). -/
theorem alogLookup_succ : ∀ e : Byte, e ≠ 0xFF → alogLookup (e + 0x01) = alogLookup e ^^^ xtime (alogLookup e) := by decide

/-- So ALOG holds the powers of 0x03, the filler at 255 included (R83). -/
theorem alogLookup_ofNat (e : Nat) (h : e ≤ 255) : alogLookup (BitVec.ofNat 8 e) = powerOfThree e := by
  induction e with
  | zero => rfl
  | succ e ih =>
    have hlast : BitVec.ofNat 8 e ≠ 0xFF := by bv_omega
    have hsucc : BitVec.ofNat 8 (e + 1) = BitVec.ofNat 8 e + 0x01 := BitVec.ofNat_add e 1
    rw [hsucc, alogLookup_succ _ hlast, ih (Nat.le_of_succ_le h), powerOfThree]

theorem alogLookup_eq_powerOfThree (e : Byte) : alogLookup e = powerOfThree e.toNat := by
  rw [← alogLookup_ofNat e.toNat (Nat.le_of_lt_succ e.isLt), BitVec.ofNat_toNat, BitVec.setWidth_eq]

/-- LOG is an inverse of ALOG (R82, R83). -/
theorem alogLookup_logLookup : ∀ a : Byte, a ≠ 0x00 → alogLookup (logLookup a) = a := by decide

theorem logLookup_alogLookup : ∀ e : Byte, e.toNat ≤ 254 → logLookup (alogLookup e) = e := by decide

theorem logLookup_le : ∀ a : Byte, (logLookup a).toNat ≤ 254 := by decide

theorem powerOfThree_logLookup {a : Byte} (ha : a ≠ 0x00) : powerOfThree (logLookup a).toNat = a := by
  rw [← alogLookup_eq_powerOfThree, alogLookup_logLookup a ha]

theorem logLookup_powerOfThree {e : Nat} (he : e ≤ 254) : (logLookup (powerOfThree e)).toNat = e := by
  have hto : (BitVec.ofNat 8 e).toNat = e := Nat.mod_eq_of_lt (by omega)
  rw [← alogLookup_ofNat e (by omega), logLookup_alogLookup _ (by omega), hto]

theorem powerOfThree_255 : powerOfThree 255 = 0x01 := (alogLookup_eq_powerOfThree 255).symm

/-- The powers of 0x03 come round after 255. -/
theorem powerOfThree_periodic : Function.Periodic powerOfThree 255 := fun e => by
  rw [powerOfThree_add, powerOfThree_255, carrylessMul_one]

/-! ## GFMUL -/

/-- The product of non-zero bytes, by their logarithms. -/
theorem carrylessMul_eq_powerOfThree {a b : Byte} (ha : a ≠ 0x00) (hb : b ≠ 0x00) :
    carrylessMul a b = powerOfThree ((logLookup a).toNat + (logLookup b).toNat) := by
  rw [powerOfThree_add, powerOfThree_logLookup ha, powerOfThree_logLookup hb]

theorem eq_zero_or_eq_zero_of_carrylessMul_eq_zero {a b : Byte} (h : carrylessMul a b = 0x00) : a = 0x00 ∨ b = 0x00 := by
  by_contra! hne
  obtain ⟨ha, hb⟩ := hne
  exact powerOfThree_ne_zero _ (carrylessMul_eq_powerOfThree ha hb ▸ h)

theorem gfMul_of_zero {a b : Byte} (h : a = 0x00 ∨ b = 0x00) : gfMul a b = 0x00 := if_pos h

theorem gfMul_of_ne_zero {a b : Byte} (ha : a ≠ 0x00) (hb : b ≠ 0x00) :
    gfMul a b = alogLookup (BitVec.ofNat 8 (((logLookup a).toNat + (logLookup b).toNat) % 255)) :=
  if_neg (not_or.2 ⟨ha, hb⟩)

/-- Multiplication by the tables is carry-less multiplication modulo 0x11B (R88, R89 item 4). -/
theorem gfMul_eq_carrylessMul (a b : Byte) : gfMul a b = carrylessMul a b := by
  by_cases ha : a = 0x00
  · rw [gfMul_of_zero (.inl ha), ha, zero_carrylessMul]
  by_cases hb : b = 0x00
  · rw [gfMul_of_zero (.inr hb), hb, carrylessMul_zero]
  have hlt : ((logLookup a).toNat + (logLookup b).toNat) % 255 < 255 := Nat.mod_lt _ (by decide)
  rw [gfMul_of_ne_zero ha hb, alogLookup_ofNat _ (by omega), powerOfThree_periodic.map_mod_nat,
    carrylessMul_eq_powerOfThree ha hb]

/-! ## The multiplicative inverse -/

/-- The multiplicative inverse of R80's closed form, of zero zero. -/
def inverse (a : Byte) : Byte :=
  if a = 0x00 then 0x00 else powerOfThree (255 - (logLookup a).toNat)

theorem inverse_zero : inverse 0x00 = 0x00 := rfl

theorem inverse_of_ne_zero {a : Byte} (ha : a ≠ 0x00) : inverse a = powerOfThree (255 - (logLookup a).toNat) := if_neg ha

theorem inverse_ne_zero {a : Byte} (ha : a ≠ 0x00) : inverse a ≠ 0x00 :=
  inverse_of_ne_zero ha ▸ powerOfThree_ne_zero _

theorem carrylessMul_inverse {a : Byte} (ha : a ≠ 0x00) : carrylessMul a (inverse a) = 0x01 := by
  have hle : (logLookup a).toNat ≤ 254 := logLookup_le a
  calc carrylessMul a (inverse a)
    _ = carrylessMul (powerOfThree (logLookup a).toNat) (powerOfThree (255 - (logLookup a).toNat)) := by
      rw [powerOfThree_logLookup ha, inverse_of_ne_zero ha]
    _ = powerOfThree 255 := by rw [← powerOfThree_add, Nat.add_sub_cancel' (by omega)]
    _ = 0x01 := powerOfThree_255

/-- There is one inverse only. -/
theorem eq_inverse_of_carrylessMul_eq_one {a b : Byte} (ha : a ≠ 0x00) (h : carrylessMul a b = 0x01) : b = inverse a := by
  calc b
    _ = carrylessMul b (carrylessMul a (inverse a)) := by rw [carrylessMul_inverse ha, carrylessMul_one]
    _ = carrylessMul (inverse a) (carrylessMul a b) := by
      rw [← carrylessMul_assoc, carrylessMul_comm b a, carrylessMul_comm]
    _ = inverse a := by rw [h, carrylessMul_one]

theorem inverse_involutive : Function.Involutive inverse := fun a => by
  by_cases ha : a = 0x00
  · rw [ha, inverse_zero, inverse_zero]
  · exact (eq_inverse_of_carrylessMul_eq_one (inverse_ne_zero ha)
      (carrylessMul_comm a (inverse a) ▸ carrylessMul_inverse ha)).symm

/-! ## SBOX -/

/-- R80's closed form, over the exponents: the inverse of 0x03^e is 0x03^(255 - e). -/
theorem sboxLookup_alogLookup : ∀ e : Byte, sboxLookup (alogLookup e) = sboxAffine (alogLookup (0xFF - e)) := by decide

/-- SBOX is the affine map of the inverse (R80). -/
theorem sboxLookup_eq_sboxAffine_inverse (a : Byte) : sboxLookup a = sboxAffine (inverse a) := by
  by_cases ha : a = 0x00
  · subst ha; rfl
  have hsub : (0xFF - logLookup a).toNat = 255 - (logLookup a).toNat :=
    BitVec.toNat_sub_of_le (Nat.le_of_lt_succ (logLookup a).isLt)
  have h := sboxLookup_alogLookup (logLookup a)
  rwa [alogLookup_logLookup a ha, alogLookup_eq_powerOfThree (0xFF - _), hsub, ← inverse_of_ne_zero ha] at h

/-- The inverse of the affine map. -/
def sboxAffineInv (v : Byte) : Byte := v.rotateLeft 1 ^^^ v.rotateLeft 3 ^^^ v.rotateLeft 6 ^^^ 0x05

theorem sboxAffineInv_sboxAffine : Function.LeftInverse sboxAffineInv sboxAffine := by
  unfold Function.LeftInverse
  decide

/-- SBOX is the composition of two permutations. -/
theorem sboxLookup_bijective : Function.Bijective sboxLookup := by
  have haffine : Function.Bijective sboxAffine := Finite.injective_iff_bijective.1 sboxAffineInv_sboxAffine.injective
  rw [funext sboxLookup_eq_sboxAffine_inverse]
  exact haffine.comp inverse_involutive.bijective

/-- SBOX has no fixed point and no opposite fixed point (R80). -/
theorem sboxLookup_ne : ∀ a : Byte, sboxLookup a ≠ a ∧ sboxLookup a ≠ a ^^^ 0xFF := by decide

end Sys2Proof.Machine
end

section
/-! PROOFS. The table lookups and the multiplier (40_tables_gf.md R80 to R89). -/

namespace Sys2Proof.Machine

/-- Settles O20: the operand `b` is the inverse of `a`, and SBOX is the affine map of the inverse. -/
theorem sboxIsInverseThenAffine : Obligations.SboxIsInverseThenAffine := by
  unfold Obligations.SboxIsInverseThenAffine
  intro s a b hzero hne
  have hb : b = inverse a := by
    by_cases ha : a = 0x00
    · rw [hzero ha, ha, inverse_zero]
    · exact eq_inverse_of_carrylessMul_eq_one ha (hne ha)
  rw [hb, ← sboxLookup_eq_sboxAffine_inverse]
  rfl

/-- Settles O21: SBOX is injective, so that the one operand with the value 0x00 is 0x52. -/
theorem sboxLookupIsAPermutation : Obligations.SboxLookupIsAPermutation := by
  unfold Obligations.SboxLookupIsAPermutation
  have hzero : sboxLookup 0x52 = 0x00 := rfl
  exact ⟨fun s a => ⟨sboxLookup a, memRead_sbox s a, rfl⟩, fun s => ⟨rfl, rfl⟩,
    fun a => hzero ▸ sboxLookup_bijective.injective.eq_iff, sboxLookup_bijective, sboxLookup_ne⟩

/-- Settles O22: the entry at i is x^(i-1), by the table. -/
theorem rconIsPowersOfTwo : Obligations.RconIsPowersOfTwo := by
  unfold Obligations.RconIsPowersOfTwo
  intro s i h1 h10
  refine ⟨rconLookup i, memRead_rcon s h10, if_pos h10, ?_⟩
  rw [← rconLookup_succ (i - 1) (by omega), Nat.sub_add_cancel h1]

/-- Settles O23: ALOG holds the powers of 0x03, and LOG undoes it. -/
theorem logarithmsAreToBaseThree : Obligations.LogarithmsAreToBaseThree := by
  unfold Obligations.LogarithmsAreToBaseThree
  refine fun s => ⟨fun e _ => ?_, fun a ha => ?_, rfl, rfl, rfl⟩
  · have hpow : alogLookup e = powerOfThree e.toNat := alogLookup_eq_powerOfThree e
    exact ⟨alogLookup e, memRead_alog s e, rfl, hpow, hpow ▸ powerOfThree_ne_zero _⟩
  · refine ⟨logLookup a, memRead_log s a, if_neg ha, logLookup_le a, powerOfThree_logLookup ha, fun e he h => ?_⟩
    rw [← h, logLookup_powerOfThree he]

/-- Settles O24: the product by the tables is the carry-less one. -/
theorem gfmulIsCarrylessProduct : Obligations.GfmulIsCarrylessProduct := by
  unfold Obligations.GfmulIsCarrylessProduct
  refine fun s a b => ⟨gfMul a b, rfl, gfMul_eq_carrylessMul a b, gfMul_of_zero, fun ha hb => ?_⟩
  refine ⟨logLookup a, logLookup b, memRead_log s a, memRead_log s b, ?_⟩
  have hlt : ((logLookup a).toNat + (logLookup b).toNat) % 255 < 256 := by omega
  rw [gfMul_of_ne_zero ha hb, ← memRead_alog s, BitVec.toNat_ofNat, Nat.mod_eq_of_lt hlt]

/-- Settles O25: the laws of the carry-less product. -/
theorem gfmulIsAFieldProduct : Obligations.GfmulIsAFieldProduct := by
  unfold Obligations.GfmulIsAFieldProduct
  simp only [gfMul_eq_carrylessMul]
  exact ⟨fun a => ⟨carrylessMul_one a, carrylessMul_zero a, zero_carrylessMul a⟩,
    carrylessMul_comm, carrylessMul_assoc, fun a => (fieldLinear_carrylessMul a).xor,
    fun _ _ => eq_zero_or_eq_zero_of_carrylessMul_eq_zero, fun a => ⟨carrylessMul_two a, carrylessMul_three a⟩⟩

end Sys2Proof.Machine
end

section
/-! SUPPORT. The key-schedule units byte by byte (41_key_schedule.md R100 to R103), the schedule as its 44 words (R42), and EXPAND
as the while loop of R104. -/

namespace Sys2Proof.Machine

variable {xk xk' : ExpandedKey} {n : Nat}

/-! ## The words -/

theorem scheduleWord_getElem (xk : ExpandedKey) (n j : Nat) (hj : j < 4) : (scheduleWord xk n)[j] = byteAt xk (4 * n + j) := by
  match j, hj with
  | 0, _ | 1, _ | 2, _ | 3, _ => rfl

theorem xorWord_getElem (a b : Word) (j : Nat) (hj : j < 4) : (xorWord a b)[j] = a[j] ^^^ b[j] := by
  match j, hj with
  | 0, _ | 1, _ | 2, _ | 3, _ => rfl

theorem ksCore_bytes (w0 w1 w2 w3 : Byte) (i : Nat) :
    ksCore #v[w0, w1, w2, w3] i = #v[sboxLookup w1 ^^^ rconLookup i, sboxLookup w2, sboxLookup w3, sboxLookup w0] := rfl

theorem kexpWord_of_not_boundary (xk : ExpandedKey) (h : n % 4 ≠ 0) :
    kexpWord xk n = xorWord (scheduleWord xk (n - 4)) (scheduleWord xk (n - 1)) := by
  simp only [kexpWord, if_neg h]

theorem kexpWord_of_boundary (xk : ExpandedKey) (h : n % 4 = 0) :
    kexpWord xk n = xorWord (scheduleWord xk (n - 4)) (ksCore (scheduleWord xk (n - 1)) (n / 4)) := by
  simp only [kexpWord, if_pos h]

/-- A word off the boundary: the bytes 16 and 4 positions prior (R103). -/
theorem kexpWord_getElem_of_not_boundary (xk : ExpandedKey) (h4 : 4 ≤ n) (h : n % 4 ≠ 0) (j : Nat) (hj : j < 4) :
    (kexpWord xk n)[j] = byteAt xk (4 * n - 16 + j) ^^^ byteAt xk (4 * n - 4 + j) := by
  have h16 : 4 * (n - 4) = 4 * n - 16 := by omega
  have h1 : 4 * (n - 1) = 4 * n - 4 := by omega
  rw [kexpWord_of_not_boundary xk h, xorWord_getElem, scheduleWord_getElem, scheduleWord_getElem, h16, h1]

/-- A word at the boundary: the core takes the four bytes prior rotated by one (R102, R103). -/
theorem kexpWord_bytes_of_boundary (xk : ExpandedKey) (h4 : 4 ≤ n) (h : n % 4 = 0) :
    kexpWord xk n =
      #v[byteAt xk (4 * n - 16) ^^^ (sboxLookup (byteAt xk (4 * n - 3)) ^^^ rconLookup (n / 4)),
        byteAt xk (4 * n - 15) ^^^ sboxLookup (byteAt xk (4 * n - 2)),
        byteAt xk (4 * n - 14) ^^^ sboxLookup (byteAt xk (4 * n - 1)),
        byteAt xk (4 * n - 13) ^^^ sboxLookup (byteAt xk (4 * n - 4))] := by
  obtain ⟨m, rfl⟩ := Nat.exists_eq_add_of_le' h4
  rw [kexpWord_of_boundary xk h]
  rfl

/-! ## The schedule as its words -/

/-- Two schedules with the same words are equal: byte `i` stands in word `i / 4` (R42). -/
theorem schedule_ext (h : ∀ n < 44, scheduleWord xk n = scheduleWord xk' n) : xk = xk' := by
  ext1 i hi
  have hword := congrArg (·[i % 4]'(by omega)) (h (i / 4) (by omega))
  simp only [scheduleWord_getElem, Nat.div_add_mod, byteAt_of_lt _ i hi] at hword
  exact hword

/-- The first `n` words of two schedules are the same. -/
def SameWordsBelow (n : Nat) (xk xk' : ExpandedKey) : Prop :=
  ∀ m < n, scheduleWord xk m = scheduleWord xk' m

/-- Making word `n` by KEXPWORD keeps two schedules together, since it reads earlier words only. -/
theorem SameWordsBelow.makeWord (h : SameWordsBelow n xk xk') (h4 : 4 ≤ n) (h43 : n ≤ 43) :
    SameWordsBelow (n + 1) (setScheduleWord xk n (kexpWord xk n)) (setScheduleWord xk' n (kexpWord xk' n)) := by
  intro m hm
  by_cases hmn : m = n
  · rw [hmn, scheduleWord_setScheduleWord_same _ _ _ h43, scheduleWord_setScheduleWord_same _ _ _ h43]
    exact kexpWord_congr xk xk' n (h _ (by omega)) (h _ (by omega))
  · rw [scheduleWord_setScheduleWord_other _ _ _ _ h43 hmn, scheduleWord_setScheduleWord_other _ _ _ _ h43 hmn]
    exact h m (by omega)

/-- A schedule with the key in front starts as EXPAND does. -/
theorem sameWordsBelow_four_of_key {key : Block} (h : ∀ i : Fin 16, byteAt xk i.val = key[i]) :
    SameWordsBelow 4 xk (expandWords key 0) := by
  intro m hm
  ext1 j hj
  have hi : 4 * m + j < 16 := by omega
  rw [scheduleWord_getElem, scheduleWord_getElem, byteAt_expandWords_key key 0 (by omega) _ hi]
  exact h ⟨4 * m + j, hi⟩

/-- Every made word of EXPAND is KEXPWORD of the finished schedule: the words it reads stay (R103, R104). -/
theorem scheduleWord_expand_eq_kexpWord (key : Block) (h4 : 4 ≤ n) (h43 : n ≤ 43) :
    scheduleWord (expand key) n = kexpWord (expand key) n := by
  have stays (m : Nat) (hm : m < n) : scheduleWord (expandWords key (n - 4)) m = scheduleWord (expand key) m := by
    have hlen : n - 4 + (44 - n) = 40 := by omega
    rw [expand, ← hlen, scheduleWord_expandWords_add key _ _ m (by omega) (by omega)]
  rw [scheduleWord_expand key n h4 h43]
  exact kexpWord_congr _ _ n (stays _ (by omega)) (stays _ (by omega))

/-! ## The loop -/

/-- One turn of the loop makes word `n` by KEXPWORD. The iteration counter is `(n + 3) / 4`, which at a boundary is `n / 4` and
there goes up by one (R104). -/
theorem expandLoop_turn (fuel : Nat) (xk : ExpandedKey) (h4 : 4 ≤ n) (h43 : n ≤ 43) :
    expandLoop (fuel + 1) ((n + 3) / 4) (4 * n) xk =
      expandLoop fuel ((n + 1 + 3) / 4) (4 * (n + 1)) (setScheduleWord xk n (kexpWord xk n)) := by
  have hpos : 4 * n < 176 := by omega
  have hword : 4 * n / 4 = n := by omega
  have hprev : (4 * n - 4) / 4 = n - 1 := by omega
  have hprior : (4 * n - 16) / 4 = n - 4 := by omega
  rw [expandLoop, if_pos hpos, hword, hprev, hprior]
  by_cases hb : n % 4 = 0
  · have hb16 : 4 * n % 16 = 0 := by omega
    have hi : (n + 3) / 4 = n / 4 := by omega
    have hi' : (n + 1 + 3) / 4 = n / 4 + 1 := by omega
    simp only [if_pos hb16, hi, hi', kexpWord_of_boundary xk hb, Nat.mul_succ]
  · have hb16 : 4 * n % 16 ≠ 0 := by omega
    have hi : (n + 1 + 3) / 4 = (n + 3) / 4 := by omega
    simp only [if_neg hb16, hi, kexpWord_of_not_boundary xk hb, Nat.mul_succ]

/-- The loop from the point where `k` words are made, for the turns that are left, ends in EXPAND's schedule. -/
theorem expandLoop_eq_expand {fuel k : Nat} {key : Block} (hk : k + fuel = 40)
    (h : SameWordsBelow (k + 4) xk (expandWords key k)) :
    expandLoop fuel ((k + 4 + 3) / 4) (4 * (k + 4)) xk = expand key := by
  induction fuel generalizing k xk with
  | zero =>
    obtain rfl : k = 40 := hk
    exact schedule_ext h
  | succ fuel ih =>
    rw [expandLoop_turn fuel xk (by omega) (by omega)]
    have hmade := h.makeWord (by omega) (by omega)
    rw [← expandWords_succ] at hmade
    rw [Nat.add_right_comm k 4 1] at hmade ⊢
    exact ih (by omega) hmade

end Sys2Proof.Machine
end

section
/-! PROOFS. The key schedule (41_key_schedule.md R100 to R107), and the frame of the micro-operations. -/

namespace Sys2Proof.Machine

/-! ## The units driven directly -/

theorem exec_ksCore {i : Nat} (h : i ≤ 10) (w : Word) (s : State) :
    exec (.ksCore w i) s = .next (s.drive (.word (ksCore w i))) := if_pos h

theorem exec_kexpWord {n : Nat} (h4 : 4 ≤ n) (h43 : n ≤ 43) (xk : ExpandedKey) (s : State) :
    exec (.kexpWord xk n) s = .next (s.drive (.word (kexpWord xk n))) := if_pos ⟨h4, h43⟩

theorem exec_rkSel {r : Nat} (h : r ≤ 10) (xk : ExpandedKey) (s : State) :
    exec (.rkSel xk r) s = .next (s.drive (.matrix (rkSel xk r))) := if_pos h

theorem exec_rkSel_refused {r : Nat} (h : 10 < r) (xk : ExpandedKey) (s : State) :
    exec (.rkSel xk r) s = .refused .roundKeyIndex := if_neg (Nat.not_le_of_gt h)

/-- Settles O29: the loop and EXPAND make the same words one after the other, from the key on. -/
theorem expandIsTheLoop : Obligations.ExpandIsTheLoop := by
  unfold Obligations.ExpandIsTheLoop
  intro s key
  refine ⟨expand key, rfl, fun start hstart => ?_, fun i => ?_, fun n => scheduleWord_expand_eq_kexpWord key⟩
  · simpa using expandLoop_eq_expand (fuel := 40) (k := 0) rfl (sameWordsBelow_four_of_key hstart)
  · rw [expand, byteAt_expandWords_key key 40 le_rfl i i.isLt, Fin.getElem_fin]

/-- Settles O26, by the definitions of the two units. -/
theorem rotateAndSubstituteWord : Obligations.RotateAndSubstituteWord := by
  unfold Obligations.RotateAndSubstituteWord
  exact fun s w0 w1 w2 w3 => ⟨rfl, rfl⟩

/-- Settles O27: the constant read is the one the core adds. -/
theorem keyScheduleCore : Obligations.KeyScheduleCore := by
  unfold Obligations.KeyScheduleCore
  intro s w0 w1 w2 w3 i _ h10
  refine ⟨rconLookup i, memRead_rcon s h10, ?_⟩
  rw [exec_ksCore h10, ksCore_bytes, State.drive]

/-- Settles O28: the bytes of the word off the boundary and at it. -/
theorem scheduleWordRule : Obligations.ScheduleWordRule := by
  unfold Obligations.ScheduleWordRule
  intro s xk n h4 h43
  refine ⟨kexpWord xk n, exec_kexpWord h4 h43 xk s, kexpWord_getElem_of_not_boundary xk h4, fun h => ?_⟩
  rw [kexpWord_bytes_of_boundary xk h4 h]
  exact ⟨rfl, rfl, rfl, rfl⟩

/-- Settles O30: the entries of the round key, and the refusal above round 10. -/
theorem roundKeySelection : Obligations.RoundKeySelection := by
  unfold Obligations.RoundKeySelection
  exact fun s xk r => ⟨fun hr => ⟨rkSel xk r, exec_rkSel hr xk s, fun row col =>
    rkSel_getElem xk r row col hr row.isLt col.isLt⟩, fun hr => exec_rkSel_refused hr xk s⟩

/-! ## The micro-operations -/

theorem exec_kexpand {s : State} (h : s.keyValid = true) : exec .kexpand s = .next (s.writeXk (expand s.key)).advance :=
  if_pos h

theorem exec_kexpand_fault {s : State} (h : s.keyValid = false) : exec .kexpand s = .fault .keyNotValid :=
  if_neg (ne_true_of_eq_false h)

/-- Settles O9: KEXPAND on a valid key and without one, and its place in the ROM. -/
theorem kexpandWritesTheSchedule : Obligations.KexpandWritesTheSchedule := by
  unfold Obligations.KexpandWritesTheSchedule
  refine ⟨rfl, fun s => memRead_mprom s 0, fun s => ⟨fun h => ?_, exec_kexpand_fault⟩⟩
  rw [exec_kexpand h, State.writeXk, State.advance]

/-- Settles O16: each of them has a word, so that `exec` is the sequencer's execution, which changes the
state in one of three ways. -/
theorem microOperationsFrame : Obligations.MicroOperationsFrame := by
  unfold Obligations.MicroOperationsFrame
  intro i s t hi h
  have hword : (encodeWord i).isSome = true := by
    clear h
    revert i
    decide
  rw [← execMicro_eq_exec i hword] at h
  obtain ⟨rfl, -, rfl⟩ | ⟨rfl, rfl⟩ | ⟨hk, hst, m, rfl⟩ := execMicro_next h
  · simp [State.writeXk, State.advance]
  · simp [State.advance]
  · simp [State.stepMatrix, State.advance, hk, hst]

end Sys2Proof.Machine
end

section
/-! SUPPORT. The laws of the four round functions (42_round_transformation.md R120 to R124): MIXCOL1 by shift and XOR, what is linear
over `^`, and that all of them and the cipher under a fixed key are bijections (R132). -/

namespace Sys2Proof.Machine

/-! ## The fixed matrix -/

theorem one_gfMul (a : Byte) : gfMul 0x01 a = a := by
  rw [gfMul_eq_carrylessMul, carrylessMul_comm, carrylessMul_one]

theorem two_gfMul (a : Byte) : gfMul 0x02 a = xtime a := by
  rw [gfMul_eq_carrylessMul, carrylessMul_comm, carrylessMul_two]

theorem three_gfMul (a : Byte) : gfMul 0x03 a = xtime a ^^^ a := by
  rw [gfMul_eq_carrylessMul, carrylessMul_comm, carrylessMul_three]

/-- MIXCOL1 by shift and XOR (R122, R89 item 4). -/
theorem mixCol1_eq_xtime (a : Word) :
    mixCol1 a =
      #v[xtime a[0] ^^^ (xtime a[1] ^^^ a[1]) ^^^ a[2] ^^^ a[3],
        a[0] ^^^ xtime a[1] ^^^ (xtime a[2] ^^^ a[2]) ^^^ a[3],
        a[0] ^^^ a[1] ^^^ xtime a[2] ^^^ (xtime a[3] ^^^ a[3]),
        (xtime a[0] ^^^ a[0]) ^^^ a[1] ^^^ a[2] ^^^ xtime a[3]] := by
  simp only [mixCol1, one_gfMul, two_gfMul, three_gfMul]

/-- The row [2, 3, 1, 1] of the matrix of R122 times a column. The other rows are its rotations. -/
def mixRow (a b c d : Byte) : Byte := xtime a ^^^ (xtime b ^^^ b) ^^^ c ^^^ d

theorem mixRow_xor (a b c d a' b' c' d' : Byte) :
    mixRow (a ^^^ a') (b ^^^ b') (c ^^^ c') (d ^^^ d') = mixRow a b c d ^^^ mixRow a' b' c' d' := by
  simp only [mixRow, xtime_xor]
  ac_rfl

theorem byte_xor_left_comm (a b c : Byte) : a ^^^ (b ^^^ c) = b ^^^ (a ^^^ c) := by
  ac_rfl

/-- The row [5, 0, 4, 0] of the square of that matrix, without its zeros. -/
def mixSquareRow (a c : Byte) : Byte := xtime (xtime (a ^^^ c)) ^^^ a

theorem mixRow_mixRow (a b c d : Byte) :
    mixRow (mixRow a b c d) (mixRow b c d a) (mixRow c d a b) (mixRow d a b c) = mixSquareRow a c := by
  simp [mixRow, mixSquareRow, xtime_xor, BitVec.xor_assoc, BitVec.xor_comm, byte_xor_left_comm]

/-- The square of the square is the identity. -/
theorem mixSquareRow_mixSquareRow (a c : Byte) : mixSquareRow (mixSquareRow a c) (mixSquareRow c a) = a := by
  simp [mixSquareRow, xtime_xor, BitVec.xor_assoc, BitVec.xor_comm]

/-- MIXCOLUMNS_F by the row of its entry: row `r` of the matrix takes the column from row `r` on. -/
theorem mixColumnsF_getElem_eq_mixRow (m : StateMatrix) (r c : Nat) (hr : r < 4) (hc : c < 4) :
    (mixColumnsF m)[r][c] =
      mixRow m[r][c] (m[(r + 1) % 4]'(by omega))[c] (m[(r + 2) % 4]'(by omega))[c] (m[(r + 3) % 4]'(by omega))[c] := by
  rw [mixColumnsF_getElem, mixCol1_eq_xtime]
  match r, hr with
  | 0, _ => rfl
  | 1, _ | 2, _ | 3, _ => simp [mixRow]; ac_rfl

/-! ## Linearity -/

@[simp] theorem xorMatrix_getElem (m n : StateMatrix) (r c : Nat) (hr : r < 4) (hc : c < 4) :
    (xorMatrix m n)[r][c] = m[r][c] ^^^ n[r][c] := by
  simp [xorMatrix]

theorem mixColumnsF_xorMatrix (m n : StateMatrix) :
    mixColumnsF (xorMatrix m n) = xorMatrix (mixColumnsF m) (mixColumnsF n) := by
  refine matrix_ext _ _ fun r c hr hc => ?_
  simp only [xorMatrix_getElem, mixColumnsF_getElem_eq_mixRow, mixRow_xor]

theorem addRoundKeyF_xorMatrix (m n k l : StateMatrix) :
    addRoundKeyF (xorMatrix m n) (xorMatrix k l) = xorMatrix (addRoundKeyF m k) (addRoundKeyF n l) := by
  refine matrix_ext _ _ fun r c hr hc => ?_
  simp only [xorMatrix_getElem, addRoundKeyF_getElem]
  ac_rfl

/-! ## Bijections -/

/-- A function whose square undoes itself is a bijection. -/
theorem bijective_of_involutive_square {α : Type} {f : α → α} (h : Function.Involutive (f ∘ f)) : Function.Bijective f :=
  ⟨.of_comp h.injective, .of_comp h.surjective⟩

/-- A function on bytes, entry by entry. -/
def mapEntries (f : Byte → Byte) (m : StateMatrix) : StateMatrix := matrixOf fun r c => f m[r][c]

theorem subBytesF_eq_mapEntries : subBytesF = mapEntries sboxLookup := rfl

theorem leftInverse_mapEntries {f g : Byte → Byte} (h : Function.LeftInverse g f) :
    Function.LeftInverse (mapEntries g) (mapEntries f) := fun m => by
  refine matrix_ext _ _ fun r c hr hc => ?_
  simp [mapEntries, h m[r][c]]

theorem subBytesF_bijective : Function.Bijective subBytesF := by
  obtain ⟨g, hleft, hright⟩ := Function.bijective_iff_has_inverse.1 sboxLookup_bijective
  exact Function.bijective_iff_has_inverse.2 ⟨mapEntries g, leftInverse_mapEntries hleft, leftInverse_mapEntries hright⟩

/-- Row `r` rotated four times by `r` places is in its place again. -/
theorem shiftRowsF_bijective : Function.Bijective shiftRowsF := by
  refine bijective_of_involutive_square fun m => matrix_ext _ _ fun r c hr hc => ?_
  have hround : (((((c + r) % 4 + r) % 4 + r) % 4) + r) % 4 = c := by omega
  simp only [Function.comp_apply, shiftRowsF_getElem, hround]

/-- MIXCOLUMNS_F twice. -/
theorem mixColumnsF_mixColumnsF_getElem (m : StateMatrix) (r c : Nat) (hr : r < 4) (hc : c < 4) :
    (mixColumnsF (mixColumnsF m))[r][c] = mixSquareRow m[r][c] (m[(r + 2) % 4]'(by omega))[c] := by
  simp only [mixColumnsF_getElem_eq_mixRow]
  match r, hr with
  | 0, _ | 1, _ | 2, _ | 3, _ => exact mixRow_mixRow _ _ _ _

/-- The fourth power of the matrix is the identity. -/
theorem mixColumnsF_bijective : Function.Bijective mixColumnsF := by
  refine bijective_of_involutive_square fun m => matrix_ext _ _ fun r c hr hc => ?_
  have hround : ((r + 2) % 4 + 2) % 4 = r := by omega
  simp only [Function.comp_apply, mixColumnsF_mixColumnsF_getElem, hround, mixSquareRow_mixSquareRow]

theorem addRoundKeyF_involutive (k : StateMatrix) : Function.Involutive fun m => addRoundKeyF m k := fun m => by
  refine matrix_ext _ _ fun r c hr hc => ?_
  simp

theorem addRoundKeyF_bijective (k : StateMatrix) : Function.Bijective fun m => addRoundKeyF m k :=
  (addRoundKeyF_involutive k).bijective

theorem finalRoundF_bijective (k : StateMatrix) : Function.Bijective fun m => finalRoundF m k :=
  (addRoundKeyF_bijective k).comp (shiftRowsF_bijective.comp subBytesF_bijective)

theorem roundF_bijective (k : StateMatrix) : Function.Bijective fun m => roundF m k :=
  (addRoundKeyF_bijective k).comp (mixColumnsF_bijective.comp (shiftRowsF_bijective.comp subBytesF_bijective))

theorem rounds_bijective (xk : ExpandedKey) (n : Nat) : Function.Bijective fun m => rounds xk m n := by
  induction n with
  | zero => exact Function.bijective_id
  | succ n ih => exact (roundF_bijective (rkSel xk (n + 1))).comp ih

theorem toState_bijective : Function.Bijective toState :=
  Function.bijective_iff_has_inverse.2 ⟨fromState, fromState_toState, toState_fromState⟩

theorem fromState_bijective : Function.Bijective fromState :=
  Function.bijective_iff_has_inverse.2 ⟨toState, toState_fromState, fromState_toState⟩

/-- Every step of R140 is a bijection. -/
theorem encryptBlock_bijective (k : Block) : Function.Bijective fun p => encryptBlock p k :=
  fromState_bijective.comp <| (finalRoundF_bijective _).comp <| (rounds_bijective _ 9).comp <|
    (addRoundKeyF_bijective _).comp toState_bijective

end Sys2Proof.Machine
end

section
/-! PROOFS. The round transformation: the class F functions driven directly, the class U micro-operations, their places in the ROM and
their lanes (42_round_transformation.md R120 to R132). -/

namespace Sys2Proof.Machine

/-! ## The functions driven directly -/

/-- Settles O32: the entries of the three functions, and where SHIFTROWS_F takes byte `i` of the block form from. -/
theorem matrixFunctionsByEntry : Obligations.MatrixFunctionsByEntry := by
  unfold Obligations.MatrixFunctionsByEntry
  intro s m k
  refine ⟨⟨subBytesF m, rfl, fun r c => subBytesF_getElem m r c r.isLt c.isLt⟩,
    ⟨shiftRowsF m, rfl, fun r c => shiftRowsF_getElem m r c r.isLt c.isLt, fun i => ?_⟩,
    ⟨addRoundKeyF m k, rfl, fun r c => addRoundKeyF_getElem m k r c r.isLt c.isLt⟩⟩
  have hrow : (i.val + 4 * (i.val % 4)) % 16 % 4 = i.val % 4 := by omega
  have hcol : (i.val + 4 * (i.val % 4)) % 16 / 4 = (i.val / 4 + i.val % 4) % 4 := by omega
  simp only [Fin.getElem_fin, fromState_getElem, shiftRowsF_getElem, hrow, hcol]

/-- A column of four equal bytes is unchanged: each row of the matrix sums to 1 (R122). -/
theorem mixCol1_const (v : Byte) : mixCol1 #v[v, v, v, v] = #v[v, v, v, v] := by
  simp [mixCol1_eq_xtime, BitVec.xor_comm]

/-- Settles O33: MIXCOL1 and MIXCOLUMNS_F by their definitions, and the column of equal bytes. -/
theorem mixColumnIsMatrixTimesColumn : Obligations.MixColumnIsMatrixTimesColumn := by
  unfold Obligations.MixColumnIsMatrixTimesColumn
  refine fun s => ⟨fun a0 a1 a2 a3 => rfl, fun v => ?_, fun m => ⟨mixColumnsF m, rfl, fun r c =>
    mixColumnsF_getElem m r c r.isLt c.isLt⟩⟩
  exact congrArg (fun w => Host.Outcome.next (s.drive (.word w))) (mixCol1_const v)

/-- Settles O35: the two that commute act on values and on positions; the bijections are those of each step. -/
theorem cipherIsABijection : Obligations.CipherIsABijection := by
  unfold Obligations.CipherIsABijection
  refine ⟨fun m => matrix_ext _ _ fun r c hr hc => ?_, mixColumnsF_xorMatrix, addRoundKeyF_xorMatrix, subBytesF_bijective,
    shiftRowsF_bijective, mixColumnsF_bijective, addRoundKeyF_bijective, encryptBlock_bijective⟩
  simp only [subBytesF_getElem, shiftRowsF_getElem]

/-! ## The micro-operations -/

theorem exec_subBytes (s : State) : exec .subBytes s = .next (s.stepMatrix (subBytesF s.st)) := rfl

theorem exec_shiftRows (s : State) : exec .shiftRows s = .next (s.stepMatrix (shiftRowsF s.st)) := rfl

theorem exec_mixColumns (s : State) : exec .mixColumns s = .next (s.stepMatrix (mixColumnsF s.st)) := rfl

/-- The word 0x30 + r, for the reserved arguments too (R62, R64). -/
theorem decode_addRoundKeyWord {r : Nat} (h : r < 16) : decode (BitVec.ofNat 8 (0x30 + r)) = addRoundKeyInstr r :=
  decode_of_encodeWord (decode_wellFormed _) (encodeWord_addRoundKeyInstr h)

theorem exec_addRoundKeyInstr {r : Nat} (h : r ≤ 10) (s : State) :
    exec (addRoundKeyInstr r) s = .next (s.stepMatrix (addRoundKeyF s.st (rkSel s.xk r))) :=
  (execMicro_decode _ s).symm.trans (execMicro_addRoundKeyInstr r h s)

/-- The ROM image has 43 addresses (R66). -/
theorem lt_of_mpromImage_eq_some {a : Nat} {w : Byte} (h : mpromImage[a]? = some w) : a < 43 :=
  (List.getElem?_eq_some_iff.1 h).1

/-- Settles O12: each entry is the one SBOX holds at the old entry. -/
theorem subBytesReplacesEveryByte : Obligations.SubBytesReplacesEveryByte := by
  unfold Obligations.SubBytesReplacesEveryByte
  refine ⟨rfl, fun s => ⟨subBytesF s.st, exec_subBytes s, fun r c => ?_⟩, fun s hzero => ⟨_, exec_subBytes s, fun r c => ?_⟩⟩
  · rw [memRead_sbox]
    exact congrArg some (subBytesF_getElem s.st r c r.isLt c.isLt).symm
  · have hentry : (s.stepMatrix (subBytesF s.st)).st[r][c] = sboxLookup s.st[r][c] :=
      subBytesF_getElem s.st r c r.isLt c.isLt
    rw [hentry, hzero]
    rfl

/-- Settles O13, by the entries of SHIFTROWS_F. -/
theorem shiftRowsRotatesRowsLeft : Obligations.ShiftRowsRotatesRowsLeft := by
  unfold Obligations.ShiftRowsRotatesRowsLeft
  exact ⟨rfl, fun s => ⟨shiftRowsF s.st, exec_shiftRows s, fun r c => shiftRowsF_getElem s.st r c r.isLt c.isLt⟩⟩

/-- The word of MIXCOLUMNS in the ROM image: at every fourth address of the nine full rounds (R66, R127). -/
theorem mpromImage_eq_mixColumns_iff :
    ∀ a < 43, mpromImage[a]? = some 0x60 ↔ 5 ≤ a ∧ a ≤ 37 ∧ a % 4 = 1 := by decide

/-- Settles O14: the entries by shift and XOR, and the addresses of the word. -/
theorem mixColumnsMultipliesEveryColumn : Obligations.MixColumnsMultipliesEveryColumn := by
  unfold Obligations.MixColumnsMultipliesEveryColumn
  refine ⟨rfl, fun s => ⟨mixColumnsF s.st, exec_mixColumns s, fun c => ?_⟩, fun s a => ?_⟩
  · simp [mixCol1_eq_xtime]
  · rw [memRead_mprom]
    constructor
    · intro h
      obtain ⟨h5, h37, hmod⟩ := (mpromImage_eq_mixColumns_iff a (lt_of_mpromImage_eq_some h)).1 h
      exact ⟨(a - 5) / 4 + 1, by omega, by omega, by omega⟩
    · rintro ⟨r, h1, h9, rfl⟩
      exact (mpromImage_eq_mixColumns_iff _ (by omega)).2 ⟨by omega, by omega, by omega⟩

/-- The word of ADDROUNDKEY r in the ROM image (R66, R128). -/
theorem mpromImage_eq_addRoundKey_iff :
    ∀ r ≤ 10, ∀ a < 43,
      mpromImage[a]? = some (BitVec.ofNat 8 (0x30 + r)) ↔ a = if r = 10 then 41 else 4 * r + 2 := by decide

/-- The entry that ADDROUNDKEY r adds is the byte of XK that the address space holds (R40, R106). -/
theorem memRead_rkSel (s : State) {r : Nat} (hr : r ≤ 10) (row col : Fin 4) :
    memRead s .xk (16 * r + row.val + 4 * col.val) = some (rkSel s.xk r)[row][col] := by
  rw [memRead_xk_of_lt s (by omega)]
  exact congrArg some (rkSel_getElem s.xk r row col hr row.isLt col.isLt).symm

/-- Settles O15: the rounds by number, the reserved words, and the addresses of the words. -/
theorem addRoundKeyCombinesTheRoundKey : Obligations.AddRoundKeyCombinesTheRoundKey := by
  unfold Obligations.AddRoundKeyCombinesTheRoundKey
  refine ⟨fun i r hi => ?_, fun r h11 h15 => ?_, fun s r a hr => ?_⟩
  · have hmap : (i, r) ∈ (List.range 11).map fun r => (addRoundKeyInstr r, r) := hi
    obtain ⟨hr, rfl⟩ : r ≤ 10 ∧ addRoundKeyInstr r = i := by simpa [Nat.lt_succ_iff] using hmap
    refine ⟨decode_addRoundKeyWord (by omega), fun s => ⟨_, exec_addRoundKeyInstr hr s, fun row col => ?_⟩⟩
    exact ⟨_, memRead_rkSel s hr row col, addRoundKeyF_getElem _ _ row col row.isLt col.isLt⟩
  · interval_cases r <;> rfl
  · rw [memRead_mprom]
    by_cases ha : a < 43
    · exact mpromImage_eq_addRoundKey_iff r hr a ha
    · refine iff_of_false (fun h => ha (lt_of_mpromImage_eq_some h)) ?_
      split <;> omega

/-! ## The lanes -/

/-- The next state of SUBBYTES, entry by entry. -/
theorem subBytes_entry {s s' : State} (h : exec .subBytes s = .next s') (r c : Fin 4) :
    s'.st[r][c] = sboxLookup s.st[r][c] := by
  cases h
  exact subBytesF_getElem s.st r c r.isLt c.isLt

/-- The next state of the word of ADDROUNDKEY k, entry by entry. -/
theorem addRoundKey_entry {s s' : State} {k : Nat} (hk : k ≤ 10)
    (h : exec (decode (BitVec.ofNat 8 (0x30 + k))) s = .next s') (r c : Fin 4) :
    s'.st[r][c] = s.st[r][c] ^^^ s.xk[16 * k + r.val + 4 * c.val]'(by omega) := by
  rw [decode_addRoundKeyWord (by omega), exec_addRoundKeyInstr hk] at h
  cases h
  rw [← rkSel_getElem s.xk k r c hk r.isLt c.isLt]
  exact addRoundKeyF_getElem s.st (rkSel s.xk k) r c r.isLt c.isLt

/-- The next state of MIXCOLUMNS, column by column. -/
theorem mixColumns_entry {s s' : State} (h : exec .mixColumns s = .next s') (r c : Fin 4) :
    s'.st[r][c] = (mixCol1 (column s.st c))[r] := by
  cases h
  exact mixColumnsF_getElem s.st r c r.isLt c.isLt

theorem column_congr {m n : StateMatrix} {c : Fin 4} (h : ∀ r : Fin 4, m[r][c] = n[r][c]) : column m c = column n c :=
  congrArg Vector.ofFn (funext h)

/-- The next state of SHIFTROWS, row by row: the old row `r` rotated by `r` places. -/
theorem shiftRows_row {s s' : State} (h : exec .shiftRows s = .next s') (r : Fin 4) :
    s'.st[r].toList = s.st[r].toList.rotate r := by
  cases h
  refine List.ext_getElem (by simp) fun c hc hc' => ?_
  simp [List.getElem_rotate]

/-- Settles O36: what each operation puts in an entry, a column or a row names only that entry, column or row of the old matrix. -/
theorem laneStructure : Obligations.LaneStructure := by
  unfold Obligations.LaneStructure
  refine fun s t s' t' => ⟨fun r c h hs ht => ?_, fun k hk r c h hkey hs ht => ?_, fun c h hs ht r => ?_, fun hs r => ?_⟩
  · rw [subBytes_entry hs, subBytes_entry ht, h]
  · rw [addRoundKey_entry hk hs, addRoundKey_entry hk ht, h, hkey]
  · rw [mixColumns_entry hs, mixColumns_entry ht, column_congr h]
  · rw [shiftRows_row hs]
    exact List.rotate_perm _ _

/-! ## The cipher -/

/-- The intermediate matrices of R140 are those of any sequence that its step 3 makes. -/
theorem rounds_eq_of_steps {xk : ExpandedKey} {m : Nat → StateMatrix}
    (h : ∀ r, 1 ≤ r → r ≤ 9 → m r = roundF (m (r - 1)) (rkSel xk r)) {n : Nat} (hn : n ≤ 9) : rounds xk (m 0) n = m n := by
  induction n with
  | zero => rfl
  | succ n ih => rw [rounds_succ, ih (by omega), h (n + 1) (by omega) hn, Nat.add_sub_cancel]

/-- ENCRYPTBLOCK by such a sequence (R140). -/
theorem encryptBlock_eq_of_steps {p k : Block} {m : Nat → StateMatrix}
    (h0 : m 0 = addRoundKeyF (toState p) (rkSel (expand k) 0))
    (h : ∀ r, 1 ≤ r → r ≤ 9 → m r = roundF (m (r - 1)) (rkSel (expand k) r)) :
    encryptBlock p k = fromState (finalRoundF (m 9) (rkSel (expand k) 10)) := by
  rw [encryptBlock, ← h0, rounds_eq_of_steps h le_rfl]

/-- The known answer of AESDOC (95_test_vectors.md T1), by running the cipher. -/
theorem encryptBlock_zeroBlock :
    encryptBlock zeroBlock zeroBlock =
      #v[0x66, 0xE9, 0x4B, 0xD4, 0xEF, 0x8A, 0x2C, 0x3B, 0x88, 0x4C, 0xFA, 0x59, 0xCA, 0x34, 0x2B, 0x2E] := by
  decide +kernel

/-- Settles O34: ROUND_F by its definition, ENCRYPTBLOCK by any sequence of matrices that its rounds make, and the known answer. -/
theorem encryptBlockRoundStructure : Obligations.EncryptBlockRoundStructure := by
  unfold Obligations.EncryptBlockRoundStructure
  refine ⟨fun s m k => rfl, fun s p k m h0 h => ?_, encryptBlock_zeroBlock⟩
  exact congrArg (fun b => Host.Outcome.next (s.drive (.block b))) (encryptBlock_eq_of_steps h0 h)

end Sys2Proof.Machine
end

section
/-! SUPPORT. The micro-program as a sequence of operations: what one at an address of the ROM does, what the whole of ENCRYPT does, and
that the edges of phase EXEC run it (30_encoding.md R66, R69; 43_cipher_driver.md R144, R149, R150). -/

namespace Sys2Proof.Machine

/-! ## One operation -/

/-- The operations from address 1 to 41 work on ST alone (R66). -/
theorem execMicro_rom_stepMatrix {u : Nat} (h1 : 1 ≤ u) (h41 : u ≤ 41) (s : State) :
    ∃ m : StateMatrix, execMicro (decode (romWord u)) s = .next (s.stepMatrix m) := by
  obtain ⟨-, d1, d2, d39, d40, d41, -⟩ := decode_rom_ends
  obtain rfl | rfl | ⟨h3, h38⟩ | rfl | rfl | rfl :
      u = 1 ∨ u = 2 ∨ (3 ≤ u ∧ u < 39) ∨ u = 39 ∨ u = 40 ∨ u = 41 := by omega
  case inr.inr.inl =>
    rw [decode_rom_round u h38 h3]
    split_ifs
    case neg => exact ⟨_, execMicro_addRoundKeyInstr _ (by omega) s⟩
    all_goals exact ⟨_, rfl⟩
  · rw [d1]
    exact ⟨_, rfl⟩
  · rw [d2]
    exact ⟨_, rfl⟩
  · rw [d39]
    exact ⟨_, rfl⟩
  · rw [d40]
    exact ⟨_, rfl⟩
  · rw [d41]
    exact ⟨_, rfl⟩

theorem execMicro_kexpand {s : State} (h : s.keyValid = true) :
    execMicro .kexpand s = .next (s.writeXk (expand s.key)).advance :=
  (execMicro_eq_exec .kexpand rfl s).trans (exec_kexpand h)

theorem execMicro_ldstate (s : State) : execMicro .ldstate s = .next (s.stepMatrix (toState s.ibuf)) := rfl

/-- An operation whose result `u`, before `upc` advances, has the control state of `s` (R149). -/
theorem State.advance_control {s u : State} (hf : u.fst = s.fst) (hp : u.ph = s.ph) (hu : u.upc = s.upc) :
    u.advance.fst = s.fst ∧ u.advance.ph = s.ph ∧ u.advance.upc = s.upc + 1 :=
  ⟨hf, hp, congrArg (· + 1) hu⟩

/-- What a micro-operation does to the control state: `upc` advances (R149). -/
theorem execMicro_control {i : Instr} {s t : State} (h : execMicro i s = .next t) :
    t.fst = s.fst ∧ t.ph = s.ph ∧ t.upc = s.upc + 1 := by
  obtain ⟨-, -, rfl⟩ | ⟨-, rfl⟩ | ⟨-, -, m, rfl⟩ := execMicro_next h
  · exact State.advance_control (s.writeXk_fst _) (s.writeXk_ph _) (s.writeXk_upc _)
  · exact State.advance_control rfl rfl rfl
  · exact State.advance_control rfl rfl rfl

/-! ## The whole of ENCRYPT -/

/-- A new schedule and two new matrices, one after the other. -/
theorem State.writeXk_stepMatrix_stepMatrix (s : State) (xk : ExpandedKey) (m n : StateMatrix) :
    ((s.writeXk xk).advance.stepMatrix m).stepMatrix n = { s with xk := xk, st := n, upc := s.upc + 3 } := by
  simp [State.writeXk, State.stepMatrix, State.advance, BitVec.add_assoc]

/-- KEXPAND, LDSTATE and INITROUND: the schedule is made, and the first round key added (R140 steps 1 and 2). -/
theorem runMicro_initOps {s : State} (hk : s.keyValid = true) :
    runMicro [.kexpand, .ldstate, .addRoundKey0] s = .next { s with
      xk := expand s.key, st := addRoundKeyF (toState s.ibuf) (rkSel (expand s.key) 0), upc := s.upc + 3 } := by
  rw [runMicro_cons _ (execMicro_kexpand hk), runMicro_cons _ (execMicro_ldstate _), runMicro_cons _ rfl, runMicro_nil,
    State.writeXk_stepMatrix_stepMatrix, State.stepMatrix_st, State.stepMatrix_xk, State.advance_xk, State.writeXk_xk,
    State.advance_ibuf, State.writeXk_ibuf]

/-- The first `n` composite rounds (R140 step 3). -/
theorem runMicro_fullRounds {n : Nat} (hn : n ≤ 9) (s : State) :
    runMicro ((List.range n).flatMap fun r => roundOps (r + 1)) s =
      .next { s with st := rounds s.xk s.st n, upc := s.upc + BitVec.ofNat 6 (4 * n) } := by
  induction n with
  | zero => simp [rounds]
  | succ n ih =>
    rw [List.range_succ, List.flatMap_append, runMicro_append _ (ih (by omega)), List.flatMap_singleton,
      runMicro_roundOps (by omega), rounds_succ, Nat.mul_succ, BitVec.ofNat_add, BitVec.add_assoc]
    rfl

/-- ENCRYPT by the steps of R140: the key, nine full rounds, the final round, the output. -/
theorem encryptOps_eq_steps :
    encryptOps = ([.kexpand, .ldstate, .addRoundKey0] : List Instr) ++
      (((List.range 9).flatMap fun r => roundOps (r + 1)) ++ (finalRoundOps ++ ([.ststate] : List Instr))) := rfl

/-- The 43 operations compute the cipher (R140, R144). -/
theorem runMicro_encryptOps {s : State} (hk : s.keyValid = true) :
    runMicro encryptOps s = .next { s with
      xk := expand s.key, obuf := encryptBlock s.ibuf s.key, st := toState (encryptBlock s.ibuf s.key),
      upc := s.upc + 43 } := by
  rw [encryptOps_eq_steps, runMicro_append _ (runMicro_initOps hk), runMicro_append _ (runMicro_fullRounds le_rfl _),
    runMicro_append _ (runMicro_finalRoundOps _), runMicro_cons _ rfl, runMicro_nil]
  simp [State.advance, encryptBlock, finalRoundF, BitVec.add_assoc]

/-- Without a valid key the first of them faults (R105). -/
theorem runMicro_encryptOps_fault {s : State} (hk : s.keyValid = false) :
    runMicro encryptOps s = .fault .keyNotValid := by
  have hfirst : execMicro .kexpand s = .fault .keyNotValid := exec_kexpand_fault hk
  rw [encryptOps_eq_steps, List.cons_append, runMicro, hfirst]

/-! ## The edges of phase EXEC -/

/-- The ROM holds ENCRYPT (R66, R69). -/
theorem map_decode_mpromImage : mpromImage.map decode = encryptOps := by
  rw [← encode_encrypt]
  exact map_decode_filterMap_encodeWord _ hasOwnWord_of_mem_encryptOps

/-- The operation at an address of the ROM is ENCRYPT's (R66, R69). -/
theorem decode_romWord {u : Nat} (hu : u < encryptOps.length) : decode (romWord u) = encryptOps[u] := by
  have hget : encryptOps[u]? = some (decode (romWord u)) := by
    rw [← map_decode_mpromImage, List.getElem?_map, mpromImage_getElem? u hu, Option.map_some]
  rw [List.getElem?_eq_getElem hu] at hget
  exact (Option.some.inj hget).symm

/-- In phase EXEC an edge is USTEP, which executes the fetched word and ends the program at 43 (R71, R149, R150). -/
theorem onEdge_of_fetchWord {p : Pins} {s : State} {w : Byte} (hr : p.rst = false) (hs : s.executing = true)
    (hw : fetchWord s = some w) : onEdge p s = finishAt43 (execMicro (decode w) s) := by
  obtain ⟨hf, hp⟩ := (executing_iff s).1 hs
  rw [onEdge_of_event (selectEvent_of_exec hr hf hp)]
  exact execUstep_enabled hs hw

/-- Such an edge runs one operation of ENCRYPT (R149). -/
theorem onEdge_executing {p : Pins} {s : State} (hr : p.rst = false) (hs : s.executing = true)
    (hu : s.upc.toNat < encryptOps.length) :
    onEdge p s = finishAt43 (execMicro encryptOps[s.upc.toNat] s) := by
  rw [onEdge_of_fetchWord hr hs (fetchWord_rom s hu), decode_romWord hu]

/-- Edges of phase EXEC, not beyond address 43, are the operations of ENCRYPT from `upc` on, whatever they answer (R149, R150). -/
theorem onEdges_executing {l : List Pins} {s : State} (hr : ∀ p ∈ l, p.rst = false) (hs : s.executing = true)
    (hu : s.upc.toNat < 43) (hl : s.upc.toNat + l.length ≤ 43) :
    onEdges l s = finishAt43 (runMicro ((encryptOps.drop s.upc.toNat).take l.length) s) := by
  induction l generalizing s with
  | nil =>
    have hne : s.upc ≠ 43 := by bv_omega
    exact (finishAt43_of_ne hne).symm
  | cons p l ih =>
    obtain ⟨hrp, hrl⟩ := List.forall_mem_cons.1 hr
    have hedge := onEdge_executing hrp hs hu
    rw [List.length_cons, List.drop_eq_getElem_cons hu, List.take_succ_cons]
    rw [List.length_cons] at hl
    cases hm : execMicro encryptOps[s.upc.toNat] s with
    | fault f => simp only [onEdges, runMicro, hedge, hm, finishAt43]
    | refused r => simp only [onEdges, runMicro, hedge, hm, finishAt43]
    | next t =>
      obtain ⟨htf, htp, htu⟩ := execMicro_control hm
      have hupc : t.upc.toNat = s.upc.toNat + 1 := by bv_omega
      rw [hm] at hedge
      rw [runMicro_cons _ hm]
      by_cases hlast : t.upc = 43
      · obtain rfl : l = [] := List.eq_nil_of_length_eq_zero (by bv_omega)
        rw [finishAt43_of_eq hlast] at hedge
        rw [onEdges_cons _ hedge]
        exact (finishAt43_of_eq hlast).symm
      · have hts : t.executing = true := by
          rw [executing_iff, htf, htp]
          exact (executing_iff s).1 hs
        rw [finishAt43_of_ne hlast] at hedge
        rw [onEdges_cons _ hedge, ih hrl hts (by bv_omega) (by omega), hupc]

end Sys2Proof.Machine
end

section
/-! PROOFS. The cipher driver (43_cipher_driver.md R140 to R150): LDSTATE and STSTATE, USTEP, the pseudo-operation ENCRYPT and the 43
edges of the micro-program, and that no edge stops in a state that meets the invariants. -/

namespace Sys2Proof.Machine

/-! ## ENCRYPT -/

/-- ENCRYPT on a valid key, before the end of the program (R144). -/
theorem exec_encrypt {s : State} (hk : s.keyValid = true) :
    exec .encrypt s = finishAt43 (.next { s with
      xk := expand s.key, obuf := encryptBlock s.ibuf s.key, st := toState (encryptBlock s.ibuf s.key),
      upc := s.upc + 43 }) :=
  congrArg finishAt43 (runMicro_encryptOps hk)

/-- ENCRYPT from address 0, with the end of the program (R144, R150). -/
theorem exec_encrypt_of_zero {s : State} (hk : s.keyValid = true) (hu : s.upc = 0) :
    exec .encrypt s = .next { s with
      xk := expand s.key, obuf := encryptBlock s.ibuf s.key, st := toState (encryptBlock s.ibuf s.key),
      upc := 43, ph := .send, ocnt := 0 } := by
  rw [exec_encrypt hk, hu, finishAt43_of_eq rfl]
  rfl

/-- Settles O18: the 43 operations in the order of R140; 43 more is 43 from address 0 only. -/
theorem encryptComputesTheCipher : Obligations.EncryptComputesTheCipher := by
  unfold Obligations.EncryptComputesTheCipher
  refine fun s => ⟨exec_encrypt_of_zero, fun hk hu => ?_, fun hk => ?_⟩
  · have hne : s.upc + 43 ≠ 43 := by bv_omega
    rw [exec_encrypt hk, finishAt43_of_ne hne]
  · exact congrArg finishAt43 (runMicro_encryptOps_fault hk)

/-! ## The micro-program -/

/-- Round key 0 is the key itself (R104, R106). -/
theorem rkSel_expand_zero (key : Block) : rkSel (expand key) 0 = toState key := by
  refine matrix_ext _ _ fun r c hr hc => ?_
  rw [rkSel_getElem _ _ _ _ (by omega) hr hc, toState_getElem, ← byteAt_expandWords_key key 40 le_rfl _ (by omega),
    ← expand, byteAt_of_lt _ _ (by omega)]
  congr 1
  omega

/-- ADDROUNDKEY_F of two blocks as matrices is their exclusive or (R44, R124). -/
theorem addRoundKeyF_toState (p k : Block) : addRoundKeyF (toState p) (toState k) = toState (xorBlock p k) := by
  refine matrix_ext _ _ fun r c hr hc => ?_
  simp [xorBlock]

/-- A new schedule and a new matrix can change places. -/
theorem State.writeXk_stepMatrix_comm (s : State) (xk : ExpandedKey) (m : StateMatrix) :
    (s.writeXk xk).advance.stepMatrix m = ((s.stepMatrix m).writeXk xk).advance := rfl

/-- KEXPAND and LDSTATE touch different registers (R144). -/
theorem runMicro_kexpand_ldstate_comm {s : State} (hk : s.keyValid = true) :
    runMicro [.kexpand, .ldstate] s = runMicro [.ldstate, .kexpand] s := by
  have hk' : (s.stepMatrix (toState s.ibuf)).keyValid = true := hk
  rw [runMicro_cons _ (execMicro_kexpand hk), runMicro_cons _ (execMicro_ldstate _),
    runMicro_cons _ (execMicro_ldstate s), runMicro_cons _ (execMicro_kexpand hk'), State.stepMatrix_key,
    State.advance_ibuf, State.writeXk_ibuf, State.writeXk_stepMatrix_comm]

/-- Settles O19: the edges are the operations of ENCRYPT, the first three or all 43. -/
theorem microProgramComputesTheCipher : Obligations.MicroProgramComputesTheCipher := by
  unfold Obligations.MicroProgramComputesTheCipher
  intro s l hf hp hu hk hl hr
  have hs : s.executing = true := (executing_iff s).2 ⟨hf, hp⟩
  refine ⟨runMicro_kexpand_ldstate_comm hk, ?_, ?_⟩
  · have hl3 : (l.take 3).length = 3 := by rw [List.length_take, hl]; rfl
    have hedges : onEdges (l.take 3) s = finishAt43 (runMicro [.kexpand, .ldstate, .addRoundKey0] s) := by
      rw [onEdges_executing (fun p h => hr p (List.mem_of_mem_take h)) hs (by simp [hu]) (by simp [hu, hl3]), hl3, hu]
      rfl
    rw [runMicro_initOps hk, finishAt43_of_ne (by simp [hu])] at hedges
    exact ⟨_, hedges, by simp [hu], by rw [rkSel_expand_zero, addRoundKeyF_toState]⟩
  · have hedges : onEdges l s = exec .encrypt s := by
      rw [onEdges_executing hr hs (by simp [hu]) (by simp [hu, hl]), hl, hu]
      rfl
    rw [hedges, exec_encrypt_of_zero hk hu]

/-! ## USTEP -/

/-- On a valid key the operation at every address of the ROM completes: KEXPAND at 0, an operation on ST up to 41, STSTATE at 42. -/
theorem execMicro_rom_completes {s : State} (hk : s.keyValid = true) (hu : s.upc.toNat ≤ 42) :
    ∃ t : State, execMicro (decode (romWord s.upc.toNat)) s = .next t ∧
      (s.upc.toNat ≤ 41 → t = { s with xk := t.xk, st := t.st, upc := t.upc }) ∧
      (s.upc.toNat = 42 → t = { s with obuf := fromState s.st, upc := t.upc }) := by
  obtain ⟨d0, -, -, -, -, -, d42⟩ := decode_rom_ends
  obtain h0 | ⟨h1, h41⟩ | h42 : s.upc.toNat = 0 ∨ (1 ≤ s.upc.toNat ∧ s.upc.toNat ≤ 41) ∨ s.upc.toNat = 42 := by omega
  · rw [h0, d0]
    exact ⟨_, execMicro_kexpand hk, fun _ => by rw [State.writeXk, State.advance], by omega⟩
  · obtain ⟨m, hm⟩ := execMicro_rom_stepMatrix h1 h41 s
    exact ⟨_, hm, fun _ => rfl, by omega⟩
  · rw [h42, d42]
    exact ⟨_, rfl, by omega, fun _ => rfl⟩

/-- Settles O43: the operation at `upc` completes and advances `upc`, which ends the program at 42. -/
theorem ustepAlwaysCompletes : Obligations.UstepAlwaysCompletes := by
  unfold Obligations.UstepAlwaysCompletes
  intro s hf hp hu hk
  obtain ⟨t, ht, h41, h42⟩ := execMicro_rom_completes hk hu
  obtain ⟨-, -, hupc⟩ := execMicro_control ht
  have hnext : t.upc.toNat = s.upc.toNat + 1 := by bv_omega
  have hstep : exec .ustep s = finishAt43 (.next t) :=
    ht ▸ execUstep_enabled ((executing_iff s).2 ⟨hf, hp⟩) (fetchWord_rom s (Nat.lt_succ_of_le hu))
  by_cases hlast : s.upc.toNat = 42
  · have hend : t.upc = 43 := by bv_omega
    rw [finishAt43_of_eq hend] at hstep
    refine ⟨t.endProgram, hstep, hnext, by omega, fun _ => ?_⟩
    rw [State.endProgram, h42 hlast, hend]
  · have hne : t.upc ≠ 43 := by bv_omega
    rw [finishAt43_of_ne hne] at hstep
    exact ⟨t, hstep, hnext, fun _ => h41 (by omega), fun h => absurd h hlast⟩

/-- Settles O7: in phase EXEC an edge executes the fetched word, and the number of the edge is no part of that. -/
theorem stepRunsTheFetchedWord : Obligations.StepRunsTheFetchedWord := by
  unfold Obligations.StepRunsTheFetchedWord
  intro p s w hf hp hw
  have hs : s.executing = true := (executing_iff s).2 ⟨hf, hp⟩
  refine ⟨fun hr => ?_, fun hr => ?_⟩
  · rw [onEdge_of_fetchWord hr hs hw, execMicro_decode]
    cases exec (decode w) s <;> rfl
  · rw [step_eq_onEdge, onEdge_of_fetchWord (s := s.passEdge) hr hs hw, execMicro_decode, State.passEdge]
    cases exec (decode w) { s with edge := s.edge + 1 } <;> rfl

/-! ## LDSTATE and STSTATE -/

theorem exec_ldstate (s : State) : exec .ldstate s = .next (s.stepMatrix (toState s.ibuf)) := rfl

theorem exec_ststate (s : State) : exec .ststate s = .next ({ s with obuf := fromState s.st } : State).advance := rfl

/-- Settles O10: the block form of the new matrix is IBUF, byte by byte. -/
theorem ldstateLoadsColumnMajor : Obligations.LdstateLoadsColumnMajor := by
  unfold Obligations.LdstateLoadsColumnMajor
  refine ⟨rfl, fun s => ⟨toState s.ibuf, exec_ldstate s, fun i => ?_⟩⟩
  rw [← fromState_getElem _ i i.isLt]
  simp only [fromState_toState, Fin.getElem_fin]

/-- Settles O11, by the bytes of FROMSTATE. -/
theorem ststateStoresColumnMajor : Obligations.StstateStoresColumnMajor := by
  unfold Obligations.StstateStoresColumnMajor
  exact ⟨rfl, fun s => ⟨fromState s.st, exec_ststate s, fun i => fromState_getElem s.st i i.isLt⟩⟩

/-! ## No edge stops -/

/-- A complete block has a use while one is received (R164). -/
theorem blockComplete_completes {s : State} (hf : s.fst = .awaitingKey ∨ s.fst = .encrypting) :
    ∃ t : State, blockComplete s = .next t := by
  obtain hf | hf := hf <;> exact ⟨_, by rw [blockComplete, hf]⟩

/-- RXBYTE stops on a `cnt` outside IBUF only (R162). -/
theorem execRxByte_completes {s : State} (hf : s.fst = .awaitingKey ∨ s.fst = .encrypting) (hc : s.cnt.toNat ≤ 15)
    (b : Byte) : ∃ t : State, execRxByte b s = .next t := by
  unfold execRxByte
  rw [if_pos hc]
  split_ifs
  · exact blockComplete_completes hf
  all_goals exact ⟨_, rfl⟩

/-- RXEOS does not stop while a block is received (R163). -/
theorem execRxEos_completes {s : State} (hf : s.fst = .awaitingKey ∨ s.fst = .encrypting) :
    ∃ t : State, execRxEos s = .next t := by
  unfold execRxEos
  split_ifs
  case neg => exact blockComplete_completes hf
  all_goals exact ⟨_, rfl⟩

/-- TXBYTE(ok) stops on an `ocnt` outside OBUF only (R167). -/
theorem execTxByteOk_completes {s : State} (hc : s.ocnt.toNat ≤ 15) : ∃ t : State, execTxByteOk s = .next t := by
  have hb : s.obuf[s.ocnt.toNat]? = some s.obuf[s.ocnt.toNat] := Vector.getElem?_eq_getElem (by omega)
  unfold execTxByteOk
  rw [hb]
  split_ifs <;> exact ⟨_, rfl⟩

/-- TXBYTE(fail) never stops (R168). -/
theorem execTxByteFail_completes (s : State) : ∃ t : State, execTxByteFail s = .next t := by
  unfold execTxByteFail
  split_ifs <;> exact ⟨_, rfl⟩

/-- While a block is received the counter is inside IBUF (R29 item 3). -/
theorem Inv.onEdge_completes_of_recv {s : State} (h : Inv s) {p : Pins} (hr : p.rst = false)
    (hf : s.fst = .awaitingKey ∨ s.fst = .encrypting) (hp : s.ph = .recv) : ∃ t : State, onEdge p s = .next t := by
  obtain ⟨hc, -, -⟩ := h.r29.receiving hp hf
  have hevent := selectEvent_of_recv hr hf hp
  split_ifs at hevent
  · rw [onEdge_of_event hevent]
    exact execRxByte_completes hf hc _
  · rw [onEdge_of_event hevent]
    exact execRxEos_completes hf
  · exact ⟨s, onEdge_of_wait hevent⟩

/-- While the micro-program runs, `upc` is inside the ROM and the key is valid (R29 items 2 and 4). -/
theorem Inv.onEdge_completes_of_exec {s : State} (h : Inv s) {p : Pins} (hr : p.rst = false)
    (hf : s.fst = .encrypting) (hp : s.ph = .exec) : ∃ t : State, onEdge p s = .next t := by
  obtain ⟨hk, -⟩ := h.r29.encrypting hf
  obtain ⟨-, -, -, hu⟩ := h.r29.executing hp
  obtain ⟨t, ht, -⟩ := ustepAlwaysCompletes s hf hp hu hk
  exact ⟨t, (onEdge_of_event (selectEvent_of_exec hr hf hp)).trans ht⟩

/-- While a block is sent the counter is inside OBUF (R29 item 5). -/
theorem Inv.onEdge_completes_of_send {s : State} (h : Inv s) {p : Pins} (hr : p.rst = false)
    (hf : s.fst = .encrypting) (hp : s.ph = .send) : ∃ t : State, onEdge p s = .next t := by
  obtain ⟨hc, -⟩ := h.r29.sending hp hf
  have hevent := selectEvent_of_send hr hf hp
  split_ifs at hevent
  · rw [onEdge_of_event hevent]
    exact execTxByteFail_completes s
  · rw [onEdge_of_event hevent]
    exact execTxByteOk_completes hc
  · exact ⟨s, onEdge_of_wait hevent⟩

/-- Every edge has a next state (R149, R191), by framer state and phase. -/
theorem Inv.onEdge_completes {s : State} (h : Inv s) (p : Pins) : ∃ t : State, onEdge p s = .next t := by
  cases hr : p.rst with
  | true => exact ⟨_, onEdge_of_event (selectEvent_of_rst hr)⟩
  | false =>
    cases hf : s.fst with
    | awaitingKey =>
      obtain ⟨hp, -, -, -⟩ := h.r29.awaiting hf
      exact h.onEdge_completes_of_recv hr (.inl hf) hp
    | encrypting =>
      cases hp : s.ph with
      | recv => exact h.onEdge_completes_of_recv hr (.inr hf) hp
      | exec => exact h.onEdge_completes_of_exec hr hf hp
      | send => exact h.onEdge_completes_of_send hr hf hp
    | done => exact ⟨s, onEdge_of_wait (selectEvent_of_terminal hr (.inl hf))⟩
    | fault => exact ⟨s, onEdge_of_wait (selectEvent_of_terminal hr (.inr hf))⟩

/-- Settles O58: every edge has a next state, and a step is an edge after its number has passed. -/
theorem noStepStops : Obligations.NoStepStops := by
  unfold Obligations.NoStepStops
  exact fun s h => ⟨h.passEdge.onEdge_completes s.pins, h.onEdge_completes⟩

end Sys2Proof.Machine
end

section
/-! SUPPORT. The whole-stream function block by block (44_block_framer.md R175): what one more byte or one more block does to it. -/

namespace Sys2Proof.Machine

/-! ## The blocks of a stream -/

variable {l m : List Byte} {j n : Nat}

@[simp] theorem streamBlock_getElem (l : List Byte) (j i : Nat) (hi : i < 16) :
    (streamBlock l j)[i] = l.getD (16 * j + i) 0x00 := by
  simp [streamBlock]

/-- A block that has been taken whole stays as it is when more is taken. -/
theorem streamBlock_append (h : 16 * j + 16 ≤ l.length) : streamBlock (l ++ m) j = streamBlock l j := by
  ext1 i hi
  rw [streamBlock_getElem, streamBlock_getElem, List.getD_append _ _ _ _ (by omega)]

/-- A block of the first `n` bytes is a block of the stream. -/
theorem streamBlock_take (h : 16 * j + 16 ≤ n) : streamBlock (l.take n) j = streamBlock l j := by
  ext1 i hi
  simp [show 16 * j + i < n by omega]

/-- A block of which nothing has been taken is zero (R160). -/
theorem streamBlock_of_length_le (h : l.length ≤ 16 * j) : streamBlock l j = zeroBlock := by
  ext1 i hi
  simp [zeroBlock, List.getElem?_eq_none (show l.length ≤ 16 * j + i by omega)]

/-- The next byte of the current block goes to its own place (R162). -/
theorem streamBlock_concat {c : Nat} (h : l.length = 16 * j + c) (b : Byte) :
    streamBlock (l ++ [b]) j = (streamBlock l j).setIfInBounds c b := by
  ext1 i hi
  rw [Vector.getElem_setIfInBounds]
  split
  case isTrue hc => simp [h, hc]
  case isFalse hc =>
    rw [streamBlock_getElem, streamBlock_getElem]
    obtain hi | hi := Nat.lt_or_gt_of_ne hc
    · rw [List.getD_eq_default _ _ (by simp; omega), List.getD_eq_default _ _ (by omega)]
    · rw [List.getD_append _ _ _ _ (by omega)]

/-- Sixteen bytes are one block. -/
theorem streamBlock_toList (p : Block) : streamBlock p.toList 0 = p := by
  ext1 i hi
  simp [hi]

/-! ## The output of whole blocks -/

/-- The first block is the key, and nothing is written for it. -/
theorem streamOut_of_length_le (h : l.length ≤ 16) : streamOut l = [] := by
  have hcount : blockCount l.length ≤ 1 := by unfold blockCount; omega
  simp [streamOut, hcount]

/-- One more block of at most sixteen bytes, encrypted under the first one. -/
theorem streamOut_take_append {c : Nat} (hl : l.length = 16 * j + c) (hj : 1 ≤ j) (h1 : 1 ≤ c) (h16 : c ≤ 16) :
    streamOut l =
      streamOut (l.take (16 * j)) ++ (encryptBlock (streamBlock l j) (streamBlock l 0)).toList := by
  have hcount : blockCount l.length = j + 1 := by unfold blockCount; omega
  have hcount' : blockCount (l.take (16 * j)).length = j := by
    rw [List.length_take, blockCount]
    omega
  have hblock (i : Nat) (hi : i ∈ (List.range j).drop 1) : streamBlock (l.take (16 * j)) i = streamBlock l i := by
    have hij : i < j := List.mem_range.1 (List.mem_of_mem_drop hi)
    exact streamBlock_take (by omega)
  unfold streamOut
  rw [hcount, hcount', List.range_succ, List.drop_append_of_le_length (by simpa using hj), List.flatMap_append,
    List.flatMap_singleton, streamBlock_take (by omega)]
  exact congrArg (· ++ _) (List.flatMap_congr fun i hi => by rw [hblock i hi])

/-- Sixteen bytes are written for each block but the first. -/
theorem length_streamOut (l : List Byte) : (streamOut l).length = 16 * (blockCount l.length - 1) := by
  simp [streamOut, List.length_flatMap, Nat.mul_comm]

end Sys2Proof.Machine
end

section
/-! SUPPORT. The agreement of the streams with the whole-stream function while one block is handled: received, encrypted
and sent (44_block_framer.md R160 to R175). -/

namespace Sys2Proof.Machine

variable {p : Pins} {s t : State} {j : Nat}

/-! ## The invariant by framer state -/

/-- What `StreamInv` says in AWAITING_KEY: all that was taken is in IBUF, and nothing is written. -/
structure InKeyBlock (s : State) : Prop where
  length : s.taken.length = s.cnt.toNat
  ibuf : s.ibuf = streamBlock s.taken 0
  out : s.out = []

/-- The bytes of the current block that have been written: none before phase SEND (R51, R174). -/
def State.written (s : State) : List Byte := if s.ph = .send then s.obuf.toList.take s.ocnt.toNat else []

/-- What `StreamInv` says in ENCRYPTING, by the number `j` of the current block. -/
structure InBlock (j : Nat) (s : State) : Prop where
  length : s.taken.length = 16 * j + s.cnt.toNat
  pos : 1 ≤ j
  key : s.key = streamBlock s.taken 0
  ibuf : s.ibuf = streamBlock s.taken j
  whole : s.ph ≠ .recv → 1 ≤ s.cnt.toNat ∧ s.cnt.toNat ≤ 16 ∧ (s.cnt.toNat = 16 ∨ s.eosSeen = true)
  out : s.out = streamOut (s.taken.take (16 * j)) ++ s.written

theorem State.written_of_ne_send (hp : s.ph ≠ .send) : s.written = [] := if_neg hp

theorem State.written_of_send (hp : s.ph = .send) : s.written = s.obuf.toList.take s.ocnt.toNat := if_pos hp

theorem StreamInv.inKeyBlock (h : StreamInv s) (hf : s.fst = .awaitingKey) : InKeyBlock s := by
  obtain ⟨hl, hb, ho⟩ := h.awaiting hf
  exact ⟨hl, hb, ho⟩

theorem StreamInv.inBlock (h : StreamInv s) (hf : s.fst = .encrypting) : ∃ j, InBlock j s := by
  obtain ⟨hc, h16, hmod, hk, hb⟩ := h.blocks hf
  have hhandled : 16 * (handledLength s / 16) = handledLength s := by omega
  have hlen : s.taken.length = handledLength s + s.cnt.toNat := by unfold handledLength; omega
  refine ⟨handledLength s / 16, by omega, by omega, hk, hb, h.whole hf, ?_⟩
  rw [hhandled]
  by_cases hp : s.ph = .send
  · rw [State.written_of_send hp, h.during hf hp]
  · rw [State.written_of_ne_send hp, h.before hf hp, List.append_nil]

theorem InKeyBlock.streamInv (h : InKeyBlock s) (hi : Inv s) (hf : s.fst = .awaitingKey) : StreamInv s := by
  constructor
  case inv => exact hi
  case awaiting => exact fun _ => ⟨h.length, h.ibuf, h.out⟩
  all_goals exact fun hf' => nomatch hf.symm.trans hf'

theorem InBlock.streamInv (h : InBlock j s) (hi : Inv s) (hf : s.fst = .encrypting) : StreamInv s := by
  have hlen := h.length
  have hj := h.pos
  have hhandled : handledLength s = 16 * j := by unfold handledLength; omega
  have hdiv : 16 * j / 16 = j := by omega
  constructor
  case inv => exact hi
  case blocks =>
    rw [hhandled, hdiv]
    exact fun _ => ⟨by omega, by omega, by omega, h.key, h.ibuf⟩
  case whole => exact fun _ => h.whole
  case before =>
    intro _ hp
    rw [hhandled, h.out, State.written_of_ne_send hp, List.append_nil]
  case during =>
    intro _ hp
    rw [hhandled, h.out, State.written_of_send hp]
  all_goals exact fun hf' => nomatch hf.symm.trans hf'

/-- In DONE only the two streams matter (R175). -/
theorem StreamInv.of_done (hi : Inv s) (hf : s.fst = .done) (ho : s.out = streamOut s.taken) : StreamInv s := by
  constructor
  case inv => exact hi
  case finished => exact fun _ => ho
  all_goals exact fun hf' => nomatch hf.symm.trans hf'

/-- No statement about the streams speaks of the number of the edge. -/
theorem StreamInv.passEdge (h : StreamInv s) : StreamInv s.passEdge :=
  ⟨h.inv.passEdge, h.awaiting, h.blocks, h.whole, h.before, h.during, h.finished, h.failed⟩

/-! ## A block is received -/

theorem State.takeByte_cnt_toNat (hc : s.cnt.toNat ≤ 15) {b : Byte} : (s.takeByte b).cnt.toNat = s.cnt.toNat + 1 := by
  rw [State.takeByte_cnt]
  bv_omega

theorem InKeyBlock.takeByte (h : InKeyBlock s) (hc : s.cnt.toNat ≤ 15) (b : Byte) : InKeyBlock (s.takeByte b) where
  length := by
    have hlen := h.length
    rw [State.takeByte_cnt_toNat hc, State.takeByte_taken, List.length_append, List.length_singleton]
    omega
  ibuf := by
    rw [State.takeByte_ibuf, State.takeByte_taken, streamBlock_concat (c := s.cnt.toNat) (by simpa using h.length), h.ibuf]
  out := h.out

theorem InBlock.takeByte (h : InBlock j s) (hp : s.ph = .recv) (hc : s.cnt.toNat ≤ 15) (b : Byte) :
    InBlock j (s.takeByte b) := by
  have hlen := h.length
  have hj := h.pos
  constructor
  case length =>
    rw [State.takeByte_cnt_toNat hc, State.takeByte_taken, List.length_append, List.length_singleton]
    omega
  case pos => exact hj
  case key => rw [State.takeByte_key, State.takeByte_taken, streamBlock_append (by omega), h.key]
  case ibuf => rw [State.takeByte_ibuf, State.takeByte_taken, streamBlock_concat hlen, h.ibuf]
  case whole => exact absurd hp
  case out =>
    rw [State.takeByte_taken, List.take_append_of_le_length (by omega)]
    exact h.out

/-- The key is complete, and block 1 begins (R165). -/
theorem InKeyBlock.loadKey (h : InKeyBlock s) (hl : s.taken.length = 16) : InBlock 1 s.loadKey where
  length := hl
  pos := le_rfl
  key := h.ibuf
  ibuf := (streamBlock_of_length_le hl.le).symm
  whole := absurd rfl
  out := by
    rw [State.written_of_ne_send (by simp), State.loadKey_out, h.out, streamOut_of_length_le (by simp), List.append_nil]

/-- The block is complete, or the stream has ended inside it (R166, R173). -/
theorem InBlock.startBlk (h : InBlock j s) (hp : s.ph = .recv)
    (hw : 1 ≤ s.cnt.toNat ∧ s.cnt.toNat ≤ 16 ∧ (s.cnt.toNat = 16 ∨ s.eosSeen = true)) : InBlock j s.startBlk where
  length := h.length
  pos := h.pos
  key := h.key
  ibuf := h.ibuf
  whole _ := hw
  out := by
    have hout := h.out
    rwa [State.written_of_ne_send (by simp [hp])] at hout

/-- The flag does not matter before the block is complete (R163). -/
theorem InBlock.setEosSeen (h : InBlock j s) (hp : s.ph = .recv) : InBlock j s.setEosSeen :=
  ⟨h.length, h.pos, h.key, h.ibuf, absurd hp, h.out⟩

/-- In front of a block all that was taken has been handled (R175). -/
theorem StreamInv.out_of_cnt_eq_zero (h : StreamInv s) (hf : s.fst = .awaitingKey ∨ s.fst = .encrypting)
    (hp : s.ph = .recv) (hc : s.cnt = 0) : s.out = streamOut s.taken := by
  obtain hf | hf := hf
  · have hk := h.inKeyBlock hf
    rw [hk.out, streamOut_of_length_le (by simp [hk.length, hc])]
  · obtain ⟨j, hb⟩ := h.inBlock hf
    rw [hb.out, State.written_of_ne_send (by simp [hp]), List.append_nil, List.take_of_length_le (by simp [hb.length, hc])]

/-! ## A block is encrypted and sent -/

/-- The bytes due are those of the blocks handled and of the current one (R175). -/
theorem InBlock.streamOut_taken (h : InBlock j s) (hp : s.ph ≠ .recv) :
    streamOut s.taken = streamOut (s.taken.take (16 * j)) ++ (encryptBlock s.ibuf s.key).toList := by
  obtain ⟨h1, h16, -⟩ := h.whole hp
  rw [streamOut_take_append h.length h.pos h1 h16, h.key, h.ibuf]

theorem InBlock.length_streamOut_handled (h : InBlock j s) : (streamOut (s.taken.take (16 * j))).length = 16 * (j - 1) := by
  have hlen := h.length
  rw [length_streamOut, List.length_take, blockCount]
  omega

/-- A micro-operation leaves the block received as it is (R174). -/
theorem execMicro_inputBlock {i : Instr} (hm : execMicro i s = .next t) : t.cnt = s.cnt ∧ t.ibuf = s.ibuf := by
  obtain ⟨-, -, rfl⟩ | ⟨-, rfl⟩ | ⟨-, -, m, rfl⟩ := execMicro_next hm
  · exact ⟨(State.advance_cnt _).trans (s.writeXk_cnt _), (State.advance_ibuf _).trans (s.writeXk_ibuf _)⟩
  · exact ⟨State.advance_cnt _, State.advance_ibuf _⟩
  · exact ⟨s.stepMatrix_cnt m, s.stepMatrix_ibuf m⟩

/-- Nor does it touch anything else that `InBlock` speaks of (R174). -/
theorem InBlock.micro {i : Instr} (h : InBlock j s) (hp : s.ph = .exec) (hm : execMicro i s = .next t) : InBlock j t := by
  obtain ⟨htaken, hout⟩ := SameStreams.of_execMicro hm
  obtain ⟨hcnt, hibuf⟩ := execMicro_inputBlock hm
  obtain ⟨-, htp, -⟩ := execMicro_control hm
  have hd := DataStep.of_execMicro hm
  constructor
  case length => rw [htaken, hcnt, h.length]
  case pos => exact h.pos
  case key => rw [hd.key, htaken, h.key]
  case ibuf => rw [hibuf, htaken, h.ibuf]
  case whole =>
    rw [htp, hcnt, hd.eosSeen]
    exact h.whole
  case out =>
    rw [hout, htaken, h.out, State.written_of_ne_send (by simp [hp]), State.written_of_ne_send (by simp [htp, hp])]

/-- The end of the program: nothing of the block is written yet (R150). -/
theorem InBlock.endProgram (h : InBlock j s) (hp : s.ph = .exec) : InBlock j s.endProgram where
  length := h.length
  pos := h.pos
  key := h.key
  ibuf := h.ibuf
  whole _ := h.whole (by simp [hp])
  out := by
    have hout := h.out
    rwa [State.written_of_ne_send (by simp [hp])] at hout

theorem State.written_sendByte (hp : s.ph = .send) (hc : s.ocnt.toNat ≤ 15) {b : Byte}
    (hb : s.obuf[s.ocnt.toNat]? = some b) : (s.sendByte b).written = s.written ++ [b] := by
  have hsucc : (s.ocnt + 1).toNat = s.ocnt.toNat + 1 := by bv_omega
  have hget : s.obuf.toList[s.ocnt.toNat]? = some b := by simpa using hb
  rw [State.written_of_send (s := s.sendByte b) hp, State.written_of_send hp, State.sendByte_obuf, State.sendByte_ocnt,
    hsucc, List.take_add_one, hget, Option.toList_some]

/-- A byte is written (R167). -/
theorem InBlock.sendByte (h : InBlock j s) (hp : s.ph = .send) (hc : s.ocnt.toNat ≤ 15) {b : Byte}
    (hb : s.obuf[s.ocnt.toNat]? = some b) : InBlock j (s.sendByte b) where
  length := h.length
  pos := h.pos
  key := h.key
  ibuf := h.ibuf
  whole := h.whole
  out := by
    rw [State.written_sendByte hp hc hb, State.sendByte_out, h.out, List.append_assoc, State.sendByte_taken]

/-- With its sixteenth byte the whole block is written (R167). -/
theorem InBlock.out_of_sent (h : InBlock j s) (hp : s.ph = .send) (hc : s.ocnt = 16)
    (ho : s.obuf = encryptBlock s.ibuf s.key) : s.out = streamOut s.taken := by
  have hwritten : s.written = s.obuf.toList := by
    rw [State.written_of_send hp, hc, List.take_of_length_le (by simp)]
  rw [h.out, hwritten, ho, h.streamOut_taken (by simp [hp])]

/-- The next block begins (R160, R167). -/
theorem InBlock.recvInit (h : InBlock j s) (hp : s.ph = .send) (he : s.eosSeen = false)
    (ho : s.out = streamOut s.taken) : InBlock (j + 1) s.recvInit := by
  obtain ⟨-, -, h16 | he'⟩ := h.whole (by simp [hp])
  case inr => cases he.symm.trans he'
  have hlen : s.taken.length = 16 * (j + 1) := by rw [h.length, h16, Nat.mul_succ]
  constructor
  case length => exact hlen
  case pos => exact Nat.le_add_left 1 j
  case key => exact h.key
  case ibuf => exact (streamBlock_of_length_le hlen.le).symm
  case whole => exact absurd rfl
  case out =>
    rw [State.written_of_ne_send (by simp), State.recvInit_taken, List.take_of_length_le hlen.le, List.append_nil]
    exact ho

/-- After the last byte of a block: DONE, or the start of the next one (R167, R175). -/
theorem InBlock.blockSent (h : InBlock j s) (hi : Inv s.blockSent) (hf : s.fst = .encrypting) (hp : s.ph = .send)
    (hc : s.ocnt = 16) (ho : s.obuf = encryptBlock s.ibuf s.key) : StreamInv s.blockSent := by
  have hout := h.out_of_sent hp hc ho
  cases he : s.eosSeen with
  | true => exact .of_done hi (by simp [he]) (by simpa using hout)
  | false =>
    have hnext : s.blockSent = s.recvInit := if_neg (by simp [he])
    rw [hnext] at hi ⊢
    exact (h.recvInit hp he hout).streamInv hi hf

/-- At the exception the output is a part from the front of what was due, and not all of it (R175, R194). -/
theorem InBlock.failed (h : InBlock j s) (hi : Inv (s.raiseOutputWriteFailure s.ocnt)) (hp : s.ph = .send)
    (hc : s.ocnt.toNat ≤ 15) (ho : s.obuf = encryptBlock s.ibuf s.key) :
    StreamInv (s.raiseOutputWriteFailure s.ocnt) := by
  have hj := h.pos
  have hlen := h.length
  have hdue := h.streamOut_taken (by simp [hp])
  have hout := h.out
  obtain ⟨h1, h16, hwhole⟩ := h.whole (by simp [hp])
  rw [State.written_of_send hp, ho] at hout
  have hlo : s.out.length = 16 * (j - 1) + s.ocnt.toNat := by
    rw [hout, List.length_append, h.length_streamOut_handled, List.length_take, Vector.length_toList]
    omega
  have hld : (streamOut s.taken).length = 16 * (j - 1) + 16 := by
    rw [hdue, List.length_append, h.length_streamOut_handled, Vector.length_toList]
  have hprefix : s.out <+: streamOut s.taken := by
    rw [hout, hdue]
    exact (List.prefix_append_right_inj _).2 (List.take_prefix _ _)
  constructor
  case inv => exact hi
  case failed =>
    refine fun _ => ⟨List.prefix_iff_eq_take.1 hprefix, ?_, hwhole.imp (fun h16 => ?_) fun he => ⟨he, ?_⟩⟩
    · change s.out.length < (streamOut s.taken).length
      omega
    · change s.taken.length = 16 * (s.out.length / 16 + 2)
      omega
    · change blockCount s.taken.length = s.out.length / 16 + 2
      unfold blockCount
      omega
  all_goals exact nofun

/-- The byte that an edge writes is the one on offer (R32, R52). -/
theorem obuf_of_onEdge_out {b : Byte} (h : onEdge p s = .next t) (ho : t.out = s.out ++ [b]) :
    s.obuf[s.ocnt.toNat]? = some b := by
  obtain ⟨-, hsame | ⟨-, -, -, -, hb⟩⟩ := streamsOnlyGrow p s t h
  · simp [ho] at hsame
  · simpa [ho] using hb.symm

end Sys2Proof.Machine
end

section
/-! PROOFS. Every effect of an edge but reset keeps the agreement of the streams with R175, of all that was taken and
written and of what was since the last reset (44_block_framer.md R175; 70_reset_and_hazards.md R222). -/

namespace Sys2Proof.Machine

variable {p : Pins} {s t : State}

/-! ## The effects of an edge, one by one -/

theorem StreamInv.takeByte (h : StreamInv s) (hf : s.fst = .awaitingKey ∨ s.fst = .encrypting) (hp : s.ph = .recv)
    (hc : s.cnt.toNat < 15) (b : Byte) : StreamInv (s.takeByte b) := by
  have inv := h.inv.takeByte hf hp hc b
  obtain hf | hf := hf
  · exact ((h.inKeyBlock hf).takeByte hc.le b).streamInv inv hf
  · obtain ⟨j, hb⟩ := h.inBlock hf
    exact (hb.takeByte hp hc.le b).streamInv inv hf

/-- The sixteenth byte of the key (R162, R165). -/
theorem StreamInv.lastKeyByte (h : StreamInv s) (hf : s.fst = .awaitingKey) (hc : s.cnt = 15) (b : Byte) :
    StreamInv (s.takeByte b).loadKey := by
  obtain ⟨-, -, hs, he⟩ := h.inv.r29.awaiting hf
  have hk := (h.inKeyBlock hf).takeByte (by simp [hc]) b
  exact (hk.loadKey (hk.length.trans (by simp [hc]))).streamInv (.loadKey hs he) (by simp [he])

/-- The sixteenth byte of a later block (R162, R166). -/
theorem StreamInv.lastBlockByte (h : StreamInv s) (hf : s.fst = .encrypting) (hp : s.ph = .recv) (hc : s.cnt = 15)
    (b : Byte) : StreamInv (s.takeByte b).startBlk := by
  obtain ⟨hk, hs⟩ := h.inv.r29.encrypting hf
  obtain ⟨j, hb⟩ := h.inBlock hf
  exact ((hb.takeByte hp (by simp [hc]) b).startBlk hp (by simp [hc])).streamInv
    (.startBlk hf hk hs (by simp [hc]) (by simp [hc])) hf

/-- The end of the stream in front of a block (R170). -/
theorem StreamInv.streamEnd (h : StreamInv s) (hf : s.fst = .awaitingKey ∨ s.fst = .encrypting) (hp : s.ph = .recv)
    (hc : s.cnt = 0) : StreamInv { s with fst := .done } :=
  .of_done (.of_done rfl (by simp [hp]) (h.inv.status_of_live hf)) rfl (h.out_of_cnt_eq_zero hf hp hc)

/-- The end of the stream inside the key (R171): nothing is due. -/
theorem StreamInv.shortKey (h : StreamInv s) (hf : s.fst = .awaitingKey) : StreamInv s.setEosSeen.loadKey := by
  obtain ⟨hp, -, hs, -⟩ := h.inv.r29.awaiting hf
  obtain ⟨h15, -, -⟩ := h.inv.r29.receiving hp (.inl hf)
  have hk := h.inKeyBlock hf
  have hlen : s.taken.length ≤ 16 := by rw [hk.length]; omega
  exact .of_done (.loadKey_of_eosSeen hs rfl) rfl (hk.out.trans (streamOut_of_length_le hlen).symm)

/-- The end of the stream inside a later block (R172). -/
theorem StreamInv.shortBlock (h : StreamInv s) (hf : s.fst = .encrypting) (hp : s.ph = .recv) (hc : s.cnt ≠ 0) :
    StreamInv s.setEosSeen.startBlk := by
  obtain ⟨hk, hs⟩ := h.inv.r29.encrypting hf
  obtain ⟨h15, -, -⟩ := h.inv.r29.receiving hp (.inr hf)
  obtain ⟨j, hb⟩ := h.inBlock hf
  have h1 : 1 ≤ s.cnt.toNat := by bv_omega
  have h16 : s.cnt.toNat ≤ 16 := by omega
  exact ((hb.setEosSeen hp).startBlk hp ⟨h1, h16, .inr rfl⟩).streamInv (.startBlk hf hk hs h1 h16) hf

/-- A micro-operation before the last (R149). -/
theorem StreamInv.micro (h : StreamInv s) (hf : s.fst = .encrypting) (hp : s.ph = .exec) {w : Byte}
    (hw : fetchWord s = some w) (hm : execMicro (decode w) s = .next t) (hu : t.upc ≠ 43) : StreamInv t := by
  obtain ⟨j, hb⟩ := h.inBlock hf
  obtain ⟨htf, -, -⟩ := execMicro_control hm
  exact (hb.micro hp hm).streamInv (h.inv.micro hf hp hw hm hu) (htf.trans hf)

/-- The last micro-operation and the end of the program (R150). -/
theorem StreamInv.lastMicro (h : StreamInv s) (hf : s.fst = .encrypting) (hp : s.ph = .exec) {w : Byte}
    (hw : fetchWord s = some w) (hm : execMicro (decode w) s = .next t) (hu : t.upc = 43) : StreamInv t.endProgram := by
  obtain ⟨j, hb⟩ := h.inBlock hf
  obtain ⟨htf, htp, -⟩ := execMicro_control hm
  exact ((hb.micro hp hm).endProgram (htp.trans hp)).streamInv (h.inv.lastMicro hf hp hw hm hu) (htf.trans hf)

/-- The sink refuses a byte (R168). -/
theorem StreamInv.raiseOutputWriteFailure (h : StreamInv s) (hf : s.fst = .encrypting) (hp : s.ph = .send) :
    StreamInv (s.raiseOutputWriteFailure s.ocnt) := by
  obtain ⟨hc, ho⟩ := h.inv.r29.sending hp hf
  obtain ⟨j, hb⟩ := h.inBlock hf
  exact hb.failed (.of_fault rfl (by simp [hp]) rfl) hp hc ho

theorem StreamInv.sendByte (h : StreamInv s) (hf : s.fst = .encrypting) (hp : s.ph = .send) (hc : s.ocnt ≠ 15)
    {b : Byte} (hb : s.obuf[s.ocnt.toNat]? = some b) : StreamInv (s.sendByte b) := by
  obtain ⟨h15, -⟩ := h.inv.r29.sending hp hf
  obtain ⟨j, hj⟩ := h.inBlock hf
  exact (hj.sendByte hp h15 hb).streamInv (h.inv.sendByte hf hp hc b) hf

/-- The sixteenth byte of a block is sent (R167). -/
theorem StreamInv.lastSent (h : StreamInv s) (hf : s.fst = .encrypting) (hp : s.ph = .send) (hc : s.ocnt = 15)
    {b : Byte} (hb : s.obuf[s.ocnt.toNat]? = some b) : StreamInv (s.sendByte b).blockSent := by
  obtain ⟨hk, hs⟩ := h.inv.r29.encrypting hf
  obtain ⟨h15, ho⟩ := h.inv.r29.sending hp hf
  obtain ⟨j, hj⟩ := h.inBlock hf
  exact (hj.sendByte hp h15 hb).blockSent (.blockSent hf hp hk hs) hf hp (by simp [hc]) ho

/-- The start of the key block, when nothing has been taken or written (R220). -/
theorem StreamInv.of_start (hi : Inv s) (hf : s.fst = .awaitingKey) (hc : s.cnt = 0) (hb : s.ibuf = zeroBlock)
    (ht : s.taken = []) (ho : s.out = []) : StreamInv s :=
  InKeyBlock.streamInv ⟨by simp [ht, hc], by rw [ht, hb, streamBlock_nil], ho⟩ hi hf

/-! ## One edge, with other bytes in front of the streams -/

/-- The state with other streams. -/
def State.withStreams (s : State) (l m : List Byte) : State := { s with taken := l, out := m }

/-- `Inv` does not speak of the streams. -/
theorem Inv.withStreams (h : Inv s) (l m : List Byte) : Inv (s.withStreams l m) :=
  ⟨⟨h.r29.awaiting, h.r29.encrypting, h.r29.receiving, h.r29.executing, h.r29.sending, h.r29.faultStatus,
    h.r29.doneStatus⟩, h.schedule, h.matrix⟩

/-- A micro-operation does not read the streams (R174). -/
theorem execMicro_withStreams {i : Instr} (h : execMicro i s = .next t) (l m : List Byte) :
    execMicro i (s.withStreams l m) = .next (t.withStreams l m) := by
  cases i with
  | kexpand =>
    simp only [execMicro, execKexpand] at h
    split at h <;> cases h
    exact if_pos ‹_›
  | _ => cases h <;> rfl

/-- Nor does the end of a block. -/
theorem State.blockSent_withStreams (s : State) (l m : List Byte) :
    (s.withStreams l m).blockSent = s.blockSent.withStreams l m :=
  ite_eq_apply (State.withStreams · l m) rfl rfl

theorem streamSince_iff_withStreams (before beforeOut : List Byte) (s : State) :
    StreamSince before beforeOut s ↔
      ∃ l m : List Byte, s.taken = before ++ l ∧ s.out = beforeOut ++ m ∧ StreamInv (s.withStreams l m) := Iff.rfl

/-- Every edge but reset keeps the agreement, whatever stands in front of the streams (R175). -/
theorem StreamSince.edge {before beforeOut : List Byte} (h : StreamSince before beforeOut s) (hr : p.rst = false)
    (he : onEdge p s = .next t) : StreamSince before beforeOut t := by
  rw [streamSince_iff_withStreams] at h ⊢
  obtain ⟨l, m, hl, hm, hi⟩ := h
  cases onEdge_effect he with
  | reset hr' => cases hr.symm.trans hr'
  | wait => exact ⟨l, m, hl, hm, hi⟩
  | byte _ hf hp hc => exact ⟨l ++ [p.inData], m, by simp [hl], hm, hi.takeByte hf hp hc _⟩
  | lastKeyByte _ hf hp hc => exact ⟨l ++ [p.inData], m, by simp [hl], hm, hi.lastKeyByte hf hc _⟩
  | lastBlockByte _ hf hp hc => exact ⟨l ++ [p.inData], m, by simp [hl], hm, hi.lastBlockByte hf hp hc _⟩
  | streamEnd _ hf hp hc => exact ⟨l, m, hl, hm, hi.streamEnd hf hp hc⟩
  | shortKey _ hf hp hc => exact ⟨l, m, hl, hm, hi.shortKey hf⟩
  | shortBlock _ hf hp hc => exact ⟨l, m, hl, hm, hi.shortBlock hf hp hc⟩
  | micro _ hf hp hw hm' hu =>
    obtain ⟨htaken, hout⟩ := SameStreams.of_execMicro hm'
    exact ⟨l, m, htaken.trans hl, hout.trans hm, hi.micro hf hp hw (execMicro_withStreams hm' l m) hu⟩
  | lastMicro _ hf hp hw hm' hu =>
    obtain ⟨htaken, hout⟩ := SameStreams.of_execMicro hm'
    exact ⟨l, m, htaken.trans hl, hout.trans hm, hi.lastMicro hf hp hw (execMicro_withStreams hm' l m) hu⟩
  | failed _ hf hp => exact ⟨l, m, hl, hm, hi.raiseOutputWriteFailure hf hp⟩
  | sent _ hf hp b hc =>
    have hb := obuf_of_onEdge_out he rfl
    exact ⟨l, m ++ [b], hl, by simp [hm], hi.sendByte hf hp hc hb⟩
  | lastSent _ hf hp b hc =>
    have hb := obuf_of_onEdge_out he (State.blockSent_out _)
    have hsent := hi.lastSent hf hp hc hb
    have hcomm := (s.sendByte b).blockSent_withStreams l (m ++ [b])
    exact ⟨l, m ++ [b], by simp [hl], by simp [hm], hcomm ▸ hsent⟩

/-- Reset begins a new stream (R222). -/
theorem StreamSince.takeReset (s : State) : StreamSince s.taken s.out s.takeReset :=
  ⟨[], [], (List.append_nil _).symm, (List.append_nil _).symm,
    .of_start ((Inv.takeReset s).withStreams [] []) rfl rfl rfl rfl rfl⟩

theorem StreamSince.passEdge {before beforeOut : List Byte} (h : StreamSince before beforeOut s) :
    StreamSince before beforeOut s.passEdge := by
  obtain ⟨l, m, hl, hm, hi⟩ := h
  exact ⟨l, m, hl, hm, hi.passEdge⟩

/-- With nothing in front of it the stream is all that was taken and written. -/
theorem streamSince_nil_iff : StreamSince [] [] s ↔ StreamInv s := by
  refine ⟨fun ⟨l, m, hl, hm, hi⟩ => ?_, fun h => ⟨s.taken, s.out, rfl, rfl, h⟩⟩
  rw [List.nil_append] at hl hm
  subst hl hm
  exact hi

/-- Every edge keeps the agreement since the last reset, or is itself a reset (R222). -/
theorem StreamSince.edge_or_reset {before beforeOut : List Byte} (h : StreamSince before beforeOut s)
    (he : onEdge p s = .next t) :
    if p.rst then StreamSince s.taken s.out t else StreamSince before beforeOut t := by
  split
  case isTrue hr =>
    rw [onEdge_of_event (selectEvent_of_rst hr)] at he
    cases he
    exact .takeReset s
  case isFalse hr => exact h.edge (Bool.eq_false_of_not_eq_true hr) he

/-- Settles O59: every effect of an edge but reset keeps the agreement, whatever stands in front of the streams; a step is an
edge after its number has passed. -/
theorem stepKeepsTheStreamFunction : Obligations.StepKeepsTheStreamFunction := by
  unfold Obligations.StepKeepsTheStreamFunction
  have edge {p : Pins} {s t : State} (h : StreamInv s) (hr : p.rst = false) (he : onEdge p s = .next t) : StreamInv t :=
    streamSince_nil_iff.1 ((streamSince_nil_iff.2 h).edge hr he)
  exact ⟨fun s t h hr he => edge h.passEdge hr he, fun p s t => edge, fun _ _ s t h he => h.passEdge.edge_or_reset he,
    fun _ _ p s t => StreamSince.edge_or_reset⟩

end Sys2Proof.Machine
end

section
/-! PROOFS. The events and procedures of the block framer driven directly, its transitions with their causes, and its terminal
states (44_block_framer.md R160 to R172; 60_exceptions.md R193, R196). -/

namespace Sys2Proof.Machine

variable {p : Pins} {s t : State}

/-! ## Receiving -/

theorem blockComplete_of_awaitingKey (hf : s.fst = .awaitingKey) : blockComplete s = .next s.loadKey := by
  rw [blockComplete, hf]

theorem blockComplete_of_encrypting (hf : s.fst = .encrypting) : blockComplete s = .next s.startBlk := by
  rw [blockComplete, hf]

/-- RXBYTE inside a block (R162). -/
theorem exec_rxByte_of_lt (hs : s.receiving = true) (hc : s.cnt.toNat < 15) (b : Byte) :
    exec (.rxByte b) s = .next (s.takeByte b) := by
  have hne : (s.takeByte b).cnt ≠ 16 := by
    rw [State.takeByte_cnt]
    bv_omega
  simp only [exec, execRxByte, if_pos hs, if_pos hc.le, if_neg hne]

/-- RXBYTE with the last byte of a block (R162). -/
theorem exec_rxByte_of_last (hs : s.receiving = true) (hc : s.cnt = 15) (b : Byte) :
    exec (.rxByte b) s = blockComplete (s.takeByte b) := by
  simp [exec, execRxByte, hs, hc]

/-- The byte goes to its own place in IBUF (R162). -/
theorem State.takeByte_ibuf_getElem (s : State) (b : Byte) (i : Fin 16) :
    (s.takeByte b).ibuf[i] = if i.val = s.cnt.toNat then b else s.ibuf[i] := by
  simp only [State.takeByte_ibuf, Fin.getElem_fin, Vector.getElem_setIfInBounds, eq_comm]

/-- Settles O37: a byte inside a block, and the last one in either framer state. -/
theorem rxByteTakesOneByte : Obligations.RxByteTakesOneByte := by
  unfold Obligations.RxByteTakesOneByte
  refine fun b s hp => ⟨fun hf hc => ?_, fun hf hc => ?_, fun hf hc => ?_⟩
  · have hs : s.receiving = true := (receiving_iff s).2 ⟨hf, hp⟩
    exact ⟨s.takeByte b, exec_rxByte_of_lt hs (by omega) b, State.takeByte_cnt_toNat (by omega),
      s.takeByte_ibuf_getElem b, rfl⟩
  all_goals have hlast : s.cnt.toNat = 15 := by simp [hc]
  · have hs : s.receiving = true := (receiving_iff s).2 ⟨.inl hf, hp⟩
    refine ⟨(s.takeByte b).loadKey, (exec_rxByte_of_last hs hc b).trans (blockComplete_of_awaitingKey hf), fun i => ?_, ?_⟩
    · rw [← hlast]
      exact s.takeByte_ibuf_getElem b i
    · simp [State.loadKey, State.takeByte, State.recvInit, hp]
  · have hs : s.receiving = true := (receiving_iff s).2 ⟨.inr hf, hp⟩
    refine ⟨(s.takeByte b).startBlk, (exec_rxByte_of_last hs hc b).trans (blockComplete_of_encrypting hf), fun i => ?_, ?_⟩
    · rw [← hlast]
      exact s.takeByte_ibuf_getElem b i
    · simp [State.startBlk, State.takeByte, hc]

/-- RXEOS in front of a block (R170). -/
theorem exec_rxEos_of_cnt_eq_zero (hs : s.receiving = true) (hc : s.cnt = 0) :
    exec .rxEos s = .next { s with fst := .done } := by
  simp only [exec, execRxEos, if_pos hs, if_pos hc]

/-- RXEOS inside a block completes it (R163). -/
theorem exec_rxEos_of_cnt_ne_zero (hs : s.receiving = true) (hc : s.cnt ≠ 0) :
    exec .rxEos s = blockComplete s.setEosSeen := by
  simp only [exec, execRxEos, if_pos hs, if_neg hc]

/-- Settles O38: in front of a block, and inside one in either framer state. -/
theorem endOfStream : Obligations.EndOfStream := by
  unfold Obligations.EndOfStream
  refine fun s hp => ⟨fun hf => exec_rxEos_of_cnt_eq_zero ((receiving_iff s).2 ⟨hf, hp⟩), fun hf hc => ?_, fun hf hc => ?_⟩
  · rw [exec_rxEos_of_cnt_ne_zero ((receiving_iff s).2 ⟨.inr hf, hp⟩) hc]
    exact blockComplete_of_encrypting hf
  · rw [exec_rxEos_of_cnt_ne_zero ((receiving_iff s).2 ⟨.inl hf, hp⟩) hc,
      blockComplete_of_awaitingKey (s := s.setEosSeen) hf]
    simp [State.loadKey, State.setEosSeen, State.recvInit, hp]

/-! ## Sending -/

/-- TXBYTE(ok) with a byte on offer (R167). -/
theorem exec_txByteOk (hs : s.sending = true) {b : Byte} (hb : s.obuf[s.ocnt.toNat]? = some b) :
    exec .txByteOk s = .next (if (s.sendByte b).ocnt = 16 then (s.sendByte b).blockSent else s.sendByte b) := by
  simp only [exec, execTxByteOk, if_pos hs, hb]

/-- TXBYTE(ok) inside a block (R167). -/
theorem exec_txByteOk_of_lt (hs : s.sending = true) (hc : s.ocnt.toNat < 15) :
    exec .txByteOk s = .next (s.sendByte s.obuf[s.ocnt.toNat]) := by
  have hne : (s.sendByte s.obuf[s.ocnt.toNat]).ocnt ≠ 16 := by
    rw [State.sendByte_ocnt]
    bv_omega
  rw [exec_txByteOk hs (Vector.getElem?_eq_getElem (by omega)), if_neg hne]

/-- TXBYTE(ok) with the last byte of a block (R167). -/
theorem exec_txByteOk_of_last (hs : s.sending = true) (hc : s.ocnt = 15) :
    exec .txByteOk s = .next (s.sendByte s.obuf[15]).blockSent := by
  have h16 : (s.sendByte s.obuf[15]).ocnt = 16 := by rw [State.sendByte_ocnt, hc]; rfl
  have hb : s.obuf[s.ocnt.toNat]? = some s.obuf[15] := by simp [hc]
  rw [exec_txByteOk hs hb, if_pos h16]

theorem State.blockSent_of_eosSeen (he : s.eosSeen = true) : s.blockSent = { s with fst := .done } := if_pos he

theorem State.blockSent_of_not_eosSeen (he : s.eosSeen = false) : s.blockSent = s.recvInit := if_neg (by simp [he])

/-- Settles O39: a byte inside a block, and the last one with and without the end of the stream. -/
theorem txByteOkAppendsTheByte : Obligations.TxByteOkAppendsTheByte := by
  unfold Obligations.TxByteOkAppendsTheByte
  intro s hf hp
  have hs : s.sending = true := (sending_iff s).2 ⟨hf, hp⟩
  refine ⟨fun hc => exec_txByteOk_of_lt hs (by omega), fun hc he => ?_, fun hc he => ?_⟩
  · rw [exec_txByteOk_of_last hs hc, State.blockSent_of_eosSeen (by exact he), State.sendByte, hc]
    rfl
  · rw [exec_txByteOk_of_last hs hc, State.blockSent_of_not_eosSeen (by exact he), State.sendByte, hc]
    rfl

/-- Settles O40: TXBYTE(fail) raises the exception, which writes two registers. -/
theorem outputWriteFailureEntry : Obligations.OutputWriteFailureEntry := by
  unfold Obligations.OutputWriteFailureEntry
  exact ⟨fun s hf hp => if_pos ((sending_iff s).2 ⟨hf, hp⟩), fun n s => rfl⟩

/-! ## The procedures -/

/-- Settles O41, procedure by procedure. -/
theorem framerProcedures : Obligations.FramerProcedures := by
  unfold Obligations.FramerProcedures
  refine fun s => ⟨rfl, fun hf => ?_, fun hf => ?_, fun hu => if_pos hu⟩
  · have hload : exec .loadKey s = .next s.loadKey := if_pos hf
    exact ⟨hload, (blockComplete_of_awaitingKey hf).trans hload.symm⟩
  · have hstart : exec .startBlk s = .next s.startBlk := if_pos hf
    exact ⟨hstart, (blockComplete_of_encrypting hf).trans hstart.symm⟩

/-! ## Transitions and terminal states -/

/-- Settles O48: DONE and FAULT are no framer states in which a handshake is open, and no event is selected there. -/
theorem terminalStatesAreAbsorbing : Obligations.TerminalStatesAreAbsorbing := by
  unfold Obligations.TerminalStatesAreAbsorbing
  intro s hf p
  refine ⟨Bool.eq_false_iff.2 fun h => ?_, Bool.eq_false_iff.2 fun h => ?_, fun hr =>
    onEdge_of_wait (selectEvent_of_terminal hr hf)⟩
  · obtain ⟨-, hf', -⟩ := (inReady_iff p s).1 h
    obtain hf | hf := hf <;> simp [hf] at hf'
  · obtain ⟨-, hf', -⟩ := (outValid_iff p s).1 h
    obtain hf | hf := hf <;> simp [hf] at hf'

/-- Settles O51, event by event; the end of the program is reached from address 42 only. -/
theorem framerTransitions : Obligations.FramerTransitions := by
  unfold Obligations.FramerTransitions
  intro p s t hinv hr h
  obtain ⟨hr', -⟩ | ⟨-, rfl | ⟨hs, hv, h⟩ | ⟨hs, hv, he, h⟩ | ⟨hs, h⟩ | ⟨hs, he, rfl⟩ | ⟨hs, he, ho, h⟩⟩ :=
    onEdge_next h
  · cases hr.symm.trans hr'
  · exact .inl ⟨rfl, rfl⟩
  · obtain ⟨-, hp⟩ := (receiving_iff s).1 hs
    obtain ⟨hn, -⟩ | ⟨-, -, rfl⟩ | ⟨-, hc, hf, rfl⟩ | ⟨-, hc, hf, rfl⟩ := execRxByte_next h
    · cases hs.symm.trans hn
    · exact .inl ⟨rfl, rfl⟩
    · obtain ⟨-, -, -, heos⟩ := hinv.awaiting hf
      exact .inr (.inl ⟨hf, hp, hc, hv, by simp [heos], rfl⟩)
    · exact .inr (.inr (.inl ⟨hf, hp, .inl ⟨hc, hv⟩, hf, rfl, rfl⟩))
  · obtain ⟨hf, hp⟩ := (receiving_iff s).1 hs
    obtain ⟨hn, -⟩ | ⟨-, hc, rfl⟩ | ⟨-, -, hf, rfl⟩ | ⟨-, hc, hf, rfl⟩ := execRxEos_next h
    · cases hs.symm.trans hn
    · exact .inr (.inr (.inr (.inr (.inr (.inr (.inl ⟨hf.imp_right (⟨·, hc⟩), hp, hv, he, rfl, hp⟩))))))
    · exact .inr (.inr (.inr (.inr (.inr (.inr (.inl ⟨.inl hf, hp, hv, he, rfl, rfl⟩))))))
    · exact .inr (.inr (.inl ⟨hf, hp, .inr ⟨hc, hv, he, rfl⟩, hf, rfl, rfl⟩))
  · obtain ⟨hf, hp⟩ := (executing_iff s).1 hs
    obtain ⟨hn, -⟩ | ⟨-, w, u, -, hm, ⟨hu, rfl⟩ | ⟨-, rfl⟩⟩ := execUstep_next h
    · cases hs.symm.trans hn
    all_goals obtain ⟨huf, hup, hupc⟩ := execMicro_control hm
    · have hs42 : s.upc = 42 := by bv_omega
      exact .inr (.inr (.inr (.inl ⟨hf, hp, hs42, huf.trans hf, rfl, hu, rfl⟩)))
    · exact .inl ⟨huf, hup⟩
  · obtain ⟨hf, hp⟩ := (sending_iff s).1 hs
    exact .inr (.inr (.inr (.inr (.inr (.inr (.inr ⟨hf, hp, he, rfl, hp⟩))))))
  · obtain ⟨hf, hp⟩ := (sending_iff s).1 hs
    obtain ⟨hn, -⟩ | ⟨-, hi, ⟨-, rfl⟩ | ⟨hc, rfl⟩⟩ := execTxByteOk_next h
    · cases hs.symm.trans hn
    · exact .inl ⟨rfl, rfl⟩
    · cases heos : s.eosSeen with
      | false => exact .inr (.inr (.inr (.inr (.inl ⟨hf, hp, hc, ho, he, rfl, by simp [heos, hf], by simp [heos]⟩))))
      | true =>
        exact .inr (.inr (.inr (.inr (.inr (.inl ⟨hf, hp, hc, ho, he, rfl, by simp [heos], by simp [heos, hp]⟩)))))

end Sys2Proof.Machine
end

section
/-! PROOFS. One block from boundary to boundary: sixteen bytes in, the 43 edges of the micro-program, sixteen bytes out
(44_block_framer.md R162, R167, R175). -/

namespace Sys2Proof.Machine

variable {s : State}

/-! ## Sixteen bytes in -/

/-- An edge on which the source offers a byte (R231). -/
def offerPins (b : Byte) : Pins := { Pins.idle with inValid := true, inData := b }

/-- At a block boundary, `s` with the bytes `q` of the next block received (R160, R162). -/
def State.received (s : State) (q : List Byte) : State :=
  { s with ibuf := streamBlock q 0, cnt := BitVec.ofNat 5 q.length, taken := s.taken ++ q }

theorem State.received_nil (hc : s.cnt = 0) (hb : s.ibuf = zeroBlock) : s.received [] = s := by
  have hc' : BitVec.ofNat 5 ([] : List Byte).length = s.cnt := hc.symm
  rw [State.received, streamBlock_nil, ← hb, hc', List.append_nil]

theorem State.takeByte_received {q : List Byte} (hq : q.length < 16) (b : Byte) :
    (s.received q).takeByte b = s.received (q ++ [b]) := by
  have hcnt : (BitVec.ofNat 5 q.length).toNat = q.length := Nat.mod_eq_of_lt (by omega)
  simp only [State.takeByte, State.received, hcnt, streamBlock_concat (j := 0) (Nat.zero_add _).symm, List.append_assoc,
    List.length_append, List.length_singleton, BitVec.ofNat_add]
  rfl

/-- One edge that offers a byte: it is received, and the sixteenth starts the micro-program. -/
theorem onEdge_offer (hf : s.fst = .encrypting) (hp : s.ph = .recv) {q : List Byte} (hq : q.length < 16) (b : Byte) :
    onEdge (offerPins b) (s.received q) =
      .next (if q.length = 15 then (s.received (q ++ [b])).startBlk else s.received (q ++ [b])) := by
  have hs : (s.received q).receiving = true := (receiving_iff _).2 ⟨.inr hf, hp⟩
  have hevent : onEdge (offerPins b) (s.received q) = exec (.rxByte b) (s.received q) :=
    onEdge_of_event (selectEvent_of_recv rfl (.inr hf) hp)
  rw [hevent, ← State.takeByte_received hq]
  split
  case isTrue h15 =>
    have hc : (s.received q).cnt = 15 := congrArg (BitVec.ofNat 5) h15
    exact (exec_rxByte_of_last hs hc b).trans (blockComplete_of_encrypting hf)
  case isFalse h15 =>
    have hc : (s.received q).cnt.toNat = q.length := Nat.mod_eq_of_lt (by omega)
    exact exec_rxByte_of_lt hs (by omega) b

/-- The rest `l` of a block, after its first bytes `q`. -/
theorem onEdges_offer (hf : s.fst = .encrypting) (hp : s.ph = .recv) {l q : List Byte} (hl : q.length + l.length = 16)
    (hq : q.length < 16) : onEdges (l.map offerPins) (s.received q) = .next (s.received (q ++ l)).startBlk := by
  induction l generalizing q with
  | nil => exact absurd hl hq.ne
  | cons b l ih =>
    rw [List.length_cons] at hl
    have hedge := onEdge_offer hf hp hq b
    have hq' : (q ++ [b]).length = q.length + 1 := List.length_append
    by_cases h15 : q.length = 15
    · obtain rfl : l = [] := List.eq_nil_of_length_eq_zero (by omega)
      rw [if_pos h15] at hedge
      exact onEdges_cons _ hedge
    · rw [if_neg h15] at hedge
      rw [List.map_cons, onEdges_cons _ hedge, ih (by omega) (by omega), List.append_assoc, List.singleton_append]

/-- `s` with the whole of block `p` received and the micro-program started (R166). -/
def State.blockReceived (s : State) (p : Block) : State :=
  { s with ibuf := p, cnt := 16, taken := s.taken ++ p.toList, upc := 0, ph := .exec }

/-- The bytes of a block, from the boundary on. -/
theorem onEdges_offer_block (hf : s.fst = .encrypting) (hp : s.ph = .recv) (hc : s.cnt = 0) (hb : s.ibuf = zeroBlock)
    (p : Block) :
    onEdges (p.toList.map offerPins) s = .next (s.blockReceived p) := by
  have hedges := onEdges_offer hf hp (q := []) (l := p.toList) (by simp) (by simp)
  rw [State.received_nil hc hb] at hedges
  rw [hedges, List.nil_append, State.received, streamBlock_toList, Vector.length_toList]
  rfl

/-! ## Sixteen bytes out -/

/-- An edge on which the sink accepts a byte (R232). -/
def acceptPins : Pins := { Pins.idle with outReady := true }

/-- `s` with the first `k` bytes of OBUF written (R167). -/
def State.sentBytes (s : State) (k : Nat) : State :=
  { s with out := s.out ++ s.obuf.toList.take k, ocnt := BitVec.ofNat 5 k }

theorem State.sentBytes_zero (ho : s.ocnt = 0) : s.sentBytes 0 = s := by
  have ho' : BitVec.ofNat 5 0 = s.ocnt := ho.symm
  rw [State.sentBytes, List.take_zero, List.append_nil, ho']

theorem State.sendByte_sentBytes {k : Nat} (hk : k < 16) : (s.sentBytes k).sendByte s.obuf[k] = s.sentBytes (k + 1) := by
  have hget : s.obuf.toList[k]? = some s.obuf[k] := by simp [hk]
  simp only [State.sendByte, State.sentBytes, List.take_add_one, hget, Option.toList_some, List.append_assoc,
    BitVec.ofNat_add]
  rfl

/-- One edge that accepts a byte: it is written, and the sixteenth ends the block. -/
theorem onEdge_accept (hf : s.fst = .encrypting) (hp : s.ph = .send) {k : Nat} (hk : k < 16) :
    onEdge acceptPins (s.sentBytes k) =
      .next (if k = 15 then (s.sentBytes 16).blockSent else s.sentBytes (k + 1)) := by
  have hs : (s.sentBytes k).sending = true := (sending_iff _).2 ⟨hf, hp⟩
  have hevent : onEdge acceptPins (s.sentBytes k) = exec .txByteOk (s.sentBytes k) :=
    onEdge_of_event (selectEvent_of_send rfl hf hp)
  have hc : (s.sentBytes k).ocnt.toNat = k := Nat.mod_eq_of_lt (by omega)
  rw [hevent]
  split
  case isTrue h15 =>
    subst h15
    rw [exec_txByteOk_of_last hs rfl, ← State.sendByte_sentBytes (k := 15) (by omega)]
    rfl
  case isFalse h15 =>
    rw [exec_txByteOk_of_lt hs (by omega), ← State.sendByte_sentBytes hk]
    simp only [hc]
    rfl

/-- The last `n` bytes of a block. -/
theorem onEdges_accept (hf : s.fst = .encrypting) (hp : s.ph = .send) {n k : Nat} (hn : k + n = 16) (hk : k < 16) :
    onEdges (List.replicate n acceptPins) (s.sentBytes k) = .next (s.sentBytes 16).blockSent := by
  induction n generalizing k with
  | zero => exact absurd hn hk.ne
  | succ n ih =>
    have hedge := onEdge_accept hf hp hk
    by_cases h15 : k = 15
    · obtain rfl : n = 0 := by omega
      rw [if_pos h15] at hedge
      exact onEdges_cons _ hedge
    · rw [if_neg h15] at hedge
      rw [List.replicate_succ, onEdges_cons _ hedge, ih (by omega) (by omega)]

/-- The bytes of a block, up to the next boundary. -/
theorem onEdges_accept_block (hf : s.fst = .encrypting) (hp : s.ph = .send) (ho : s.ocnt = 0) (he : s.eosSeen = false) :
    onEdges (List.replicate 16 acceptPins) s =
      .next { s with out := s.out ++ s.obuf.toList, ocnt := 16, ibuf := zeroBlock, cnt := 0, ph := .recv } := by
  have hedges := onEdges_accept hf hp (n := 16) (k := 0) rfl (by omega)
  have htake : s.obuf.toList.take 16 = s.obuf.toList := List.take_of_length_le (by simp)
  rw [State.sentBytes_zero ho, State.blockSent_of_not_eosSeen (by exact he), State.sentBytes, htake] at hedges
  exact hedges

/-! ## The whole block -/

/-- Settles O60: the three parts one after the other, the second by O19. -/
theorem oneBlockIsEncrypted : Obligations.OneBlockIsEncrypted := by
  unfold Obligations.OneBlockIsEncrypted
  intro s p mid hf hp hc he hk hb hl hr
  have hin := onEdges_offer_block hf hp hc hb p
  obtain ⟨-, -, hmid⟩ := microProgramComputesTheCipher (s.blockReceived p) mid hf rfl rfl hk hl hr
  have hinmid := (onEdges_append mid hin).trans hmid
  refine ⟨_, (onEdges_append _ hinmid).trans (onEdges_accept_block hf rfl rfl he), ?_⟩
  exact ⟨rfl, rfl, rfl, hf, rfl, rfl, he, hk, rfl, rfl, rfl⟩

end Sys2Proof.Machine
end

section
/-! PROOFS. RESET and the reset state (70_reset_and_hazards.md R220 to R222). -/

namespace Sys2Proof.Machine

/-- Every byte of the block that IBUF holds after reset is 0x00 (R220). -/
@[simp] theorem zeroBlock_getElem {i : Nat} (hi : i < 16) : zeroBlock[i] = 0x00 :=
  Vector.getElem_replicate hi

/-- Settles O45: RESET is the reset operation, and with `rst` the edge selects it before it looks at any other pin. -/
theorem resetOverridesEverything : Obligations.ResetOverridesEverything := by
  unfold Obligations.ResetOverridesEverything
  intro s
  refine ⟨⟨s.takeReset, rfl, ?_⟩, fun p hr => onEdge_of_event (selectEvent_of_rst hr)⟩
  simp

/-- Settles O46: the fields of `State.reset`, and the status word made of two of them. -/
theorem resetStateHasTheSpecValues : Obligations.ResetStateHasTheSpecValues := by
  unfold Obligations.ResetStateHasTheSpecValues
  exact ⟨rfl, rfl, rfl, rfl, rfl, rfl, rfl, rfl, fun i => zeroBlock_getElem i.isLt, rfl, rfl, rfl⟩

end Sys2Proof.Machine
end

section
/-! PROOFS. What is the model's own: the word that `withFetchWord` selects, operands and contexts outside the rules, and events whose
handshake is closed (log entries 6, 7, 9, 10, 13). -/

namespace Sys2Proof.Machine

variable {s : State} {w : Byte}

/-! ## The word selected for the next fetch -/

/-- The ROM holds each word that R63 lists, and no other (R63, R66). -/
theorem mem_mpromImage_iff : ∀ w : Byte, w ∈ mpromImage ↔ decode w ≠ .reserved w := by decide

/-- The fetch stays at an address that holds the word. -/
theorem fetchAddress_of_getElem? {upc : BitVec 6} (h : mpromImage[upc.toNat]? = some w) : fetchAddress upc w = upc :=
  if_pos h

/-- A word of the ROM stands at the address chosen for it, a 6-bit number because the ROM has 43 words. -/
theorem mpromImage_fetchAddress (upc : BitVec 6) (hw : w ∈ mpromImage) :
    mpromImage[(fetchAddress upc w).toNat]? = some w := by
  by_cases h : mpromImage[upc.toNat]? = some w
  · rwa [fetchAddress_of_getElem? h]
  · have hidx : mpromImage.idxOf w < 43 := List.idxOf_lt_length_of_mem hw
    have hmod : mpromImage.idxOf w % 2 ^ 6 = mpromImage.idxOf w := Nat.mod_eq_of_lt (by omega)
    rw [fetchAddress, if_neg h, BitVec.toNat_ofNat, hmod]
    exact List.getElem?_idxOf hw

/-- For a word that is not in the ROM the address is 43, the first that the ROM does not have. -/
theorem fetchAddress_of_not_mem (upc : BitVec 6) (hw : w ∉ mpromImage) : fetchAddress upc w = 43 := by
  have h : mpromImage[upc.toNat]? ≠ some w := fun h => hw (List.mem_of_getElem? h)
  rw [fetchAddress, if_neg h, List.idxOf_eq_length hw]
  rfl

theorem State.withFetchWord_upc (s : State) (w : Byte) : (s.withFetchWord 8 w.toNat).upc = fetchAddress s.upc w := by
  have hbyte : BitVec.ofNat 8 (w.toNat % 2 ^ 8) = w := by rw [Nat.mod_eq_of_lt w.isLt, BitVec.ofNat_toNat, BitVec.setWidth_eq]
  exact congrArg (fetchAddress s.upc) hbyte

/-- After the selection the sequencer runs on the next edge, number 0, on which nobody asserts anything. -/
theorem step_withFetchWord (s : State) (nbits n : Nat) :
    step (s.withFetchWord nbits n) = execUstep (s.withFetchWord nbits n).passEdge :=
  onEdge_of_event (selectEvent_of_exec rfl rfl rfl)

/-- USTEP where the ROM has no word (R22, R41). -/
theorem execUstep_outside_rom (hs : s.executing = true) (hw : fetchWord s = none) :
    execUstep s = .fault .fetchOutsideRom := by
  simp only [execUstep, if_pos hs, hw]

/-- Settles O8: the ROM holds exactly the words that are not reserved, and the selected address holds the word where one does. -/
theorem placedWordRunsNext : Obligations.PlacedWordRunsNext := by
  unfold Obligations.PlacedWordRunsNext
  intro s w t
  have hupc : t.upc = fetchAddress s.upc w := s.withFetchWord_upc w
  refine ⟨fun hlegal => ?_, fun hres => ?_, rfl, fun hat => ?_⟩
  · have hword : memRead t .mprom t.upc.toNat = some w := by
      rw [memRead_mprom, hupc]
      exact mpromImage_fetchAddress s.upc ((mem_mpromImage_iff w).2 hlegal)
    have hstep : step t = finishAt43 (execMicro (decode w) t.passEdge) :=
      (step_withFetchWord s 8 w.toNat).trans (execUstep_enabled rfl hword)
    exact ⟨hword, hstep.trans (congrArg finishAt43 (execMicro_decode w t.passEdge))⟩
  · have hnot : w ∉ mpromImage := fun hmem => (mem_mpromImage_iff w).1 hmem hres
    have hnone : memRead t .mprom t.upc.toNat = none := by
      rw [hupc, fetchAddress_of_not_mem s.upc hnot]
      rfl
    exact (step_withFetchWord s 8 w.toNat).trans (execUstep_outside_rom rfl hnone)
  · rw [hupc]
    exact fetchAddress_of_getElem? (memRead_mprom s _ ▸ hat)

/-! ## Operands and contexts outside the rules -/

theorem exec_round_refused {r : Nat} (h : r = 0 ∨ 10 ≤ r) (s : State) : exec (.round r) s = .refused .roundNumber :=
  if_neg (by omega)

theorem exec_rconlk_refused {i : Nat} (h : 10 < i) (s : State) : exec (.rconlk i) s = .refused .roundConstantIndex :=
  if_neg (Nat.not_le_of_gt h)

theorem exec_ksCore_refused {i : Nat} (h : 10 < i) (w : Word) (s : State) :
    exec (.ksCore w i) s = .refused .roundConstantIndex :=
  if_neg (Nat.not_le_of_gt h)

theorem exec_kexpWord_refused {n : Nat} (h : n < 4 ∨ 43 < n) (xk : ExpandedKey) (s : State) :
    exec (.kexpWord xk n) s = .refused .scheduleWordIndex :=
  if_neg (by omega)

/-- BLOCKCOMPLETE has no meaning in a terminal state (R164). -/
theorem blockComplete_of_terminal (hf : s.fst = .done ∨ s.fst = .fault) : blockComplete s = .fault .outOfContext := by
  obtain hf | hf := hf <;> rw [blockComplete, hf]

/-- Settles O42, clause by clause; address 0 of RCON and address 255 of ALOG hold the fillers. -/
theorem operandsAndContextsOutsideTheRules : Obligations.OperandsAndContextsOutsideTheRules := by
  unfold Obligations.OperandsAndContextsOutsideTheRules
  intro s
  refine ⟨fun r h => exec_round_refused h s, fun i h => exec_rconlk_refused h s, rfl, rfl,
    fun w i h => exec_ksCore_refused h w s, fun w0 w1 w2 w3 => ?_, fun xk n h => exec_kexpWord_refused h xk s,
    fun h => if_neg h, fun h => if_neg h, blockComplete_of_terminal, fun h => if_neg h⟩
  have hfiller : rconLookup 0 = 0x8D := rfl
  rw [exec_ksCore (Nat.zero_le 10), ksCore_bytes, hfiller, State.drive]

/-! ## Events whose handshake is closed -/

/-- RXBYTE and RXEOS where no block is received (R31). -/
theorem exec_rx_of_not_receiving (hs : ¬ s.receiving = true) (b : Byte) :
    exec (.rxByte b) s = .next s ∧ exec .rxEos s = .next s :=
  ⟨if_neg hs, if_neg hs⟩

/-- TXBYTE where no block is sent (R32, R192, R195). -/
theorem exec_tx_of_not_sending (hs : ¬ s.sending = true) : exec .txByteOk s = .next s ∧ exec .txByteFail s = .next s :=
  ⟨if_neg hs, if_neg hs⟩

/-- USTEP where it is not enabled (R149). -/
theorem exec_ustep_of_not_executing (hs : ¬ s.executing = true) : exec .ustep s = .next s :=
  if_neg hs

/-- Settles O44: each of the three cases excludes the condition of its events. -/
theorem closedHandshakesLeaveNoTrace : Obligations.ClosedHandshakesLeaveNoTrace := by
  unfold Obligations.ClosedHandshakesLeaveNoTrace
  refine fun s b => ⟨fun hclosed => exec_rx_of_not_receiving (fun hs => ?_) b,
    fun hclosed => exec_tx_of_not_sending fun hs => ?_, fun hclosed => exec_ustep_of_not_executing fun hs => ?_⟩
  · obtain ⟨hf, hp⟩ := (receiving_iff s).1 hs
    obtain hne | hdone | hfault := hclosed
    · exact hne hp
    · simp [hdone] at hf
    · simp [hfault] at hf
  · obtain ⟨hf, hp⟩ := (sending_iff s).1 hs
    exact hclosed.elim (· hp) (· hf)
  · obtain ⟨hf, hp⟩ := (executing_iff s).1 hs
    exact hclosed.elim (· hp) (· hf)

end Sys2Proof.Machine
end
